-- ==== Sys2Proof/Word.lean ====
section
/-! DEFINITION. Word: the widths of the values CORE stores (spec 00_scope.md R5, R10; every stored value is an
unsigned number of its width, and arithmetic on these types wraps at that width). -/

namespace Sys2Proof

/-- A general register, a memory byte, a timer: 8 bits (R5 REG_W, TIMER_W). -/
abbrev Byte := BitVec 8

/-- An address, I, PC and a stack entry: 12 bits (R5 ADDR_W). -/
abbrev Addr := BitVec 12

/-- An instruction word: 16 bits (R80). -/
abbrev Word := BitVec 16

/-- A 4-bit field of an instruction (R10). -/
abbrev Nibble := BitVec 4

/-- The index of a general register or of a key: 0 to 15 (R20, R30). -/
abbrev RegIdx := Fin 16

end Sys2Proof
end

