-- ==== Sys2Proof/Syntax.lean ====
section
/-! DEFINITION. Syntax: the 34 instructions of CORE (spec 30_encoding.md R85), one constructor per row of
opcode_table.json in the table's order. Operands are the decoded fields (R81, R83): x and y are register indices,
kk a byte, nnn an address, n a row count. SHR and SHL ignore the y field (R93), so they carry none. -/

namespace Sys2Proof

inductive Instr where
  /-- 00E0 CLS (R170) -/
  | cls
  /-- 00EE RET (R120) -/
  | ret
  /-- 1nnn JP nnn (R121) -/
  | jp (nnn : Addr)
  /-- 2nnn CALL nnn (R122) -/
  | call (nnn : Addr)
  /-- 3xkk SE Vx,kk (R123) -/
  | seImm (x : RegIdx) (kk : Byte)
  /-- 4xkk SNE Vx,kk (R124) -/
  | sneImm (x : RegIdx) (kk : Byte)
  /-- 5xy0 SE Vx,Vy (R125) -/
  | seReg (x y : RegIdx)
  /-- 6xkk LD Vx,kk (R140) -/
  | ldImm (x : RegIdx) (kk : Byte)
  /-- 7xkk ADD Vx,kk (R141) -/
  | addImm (x : RegIdx) (kk : Byte)
  /-- 8xy0 LD Vx,Vy (R142) -/
  | ldReg (x y : RegIdx)
  /-- 8xy1 OR Vx,Vy (R143) -/
  | orReg (x y : RegIdx)
  /-- 8xy2 AND Vx,Vy (R144) -/
  | andReg (x y : RegIdx)
  /-- 8xy3 XOR Vx,Vy (R145) -/
  | xorReg (x y : RegIdx)
  /-- 8xy4 ADD Vx,Vy (R146) -/
  | addReg (x y : RegIdx)
  /-- 8xy5 SUB Vx,Vy (R147) -/
  | subReg (x y : RegIdx)
  /-- 8xy6 SHR Vx (R148) -/
  | shr (x : RegIdx)
  /-- 8xy7 SUBN Vx,Vy (R149) -/
  | subnReg (x y : RegIdx)
  /-- 8xyE SHL Vx (R150) -/
  | shl (x : RegIdx)
  /-- 9xy0 SNE Vx,Vy (R126) -/
  | sneReg (x y : RegIdx)
  /-- Annn LD I,nnn (R160) -/
  | ldI (nnn : Addr)
  /-- Bnnn JP V0,nnn (R127) -/
  | jpV0 (nnn : Addr)
  /-- Cxkk RND Vx,kk (R151) -/
  | rnd (x : RegIdx) (kk : Byte)
  /-- Dxyn DRW Vx,Vy,n (R171); n = 0 is legal (R176) -/
  | drw (x y : RegIdx) (n : Fin 16)
  /-- Ex9E SKP Vx (R193) -/
  | skp (x : RegIdx)
  /-- ExA1 SKNP Vx (R194) -/
  | sknp (x : RegIdx)
  /-- Fx07 LD Vx,DT (R190) -/
  | ldVxDT (x : RegIdx)
  /-- Fx0A LD Vx,K (R195) -/
  | ldVxK (x : RegIdx)
  /-- Fx15 LD DT,Vx (R191) -/
  | ldDTVx (x : RegIdx)
  /-- Fx18 LD ST,Vx (R192) -/
  | ldSTVx (x : RegIdx)
  /-- Fx1E ADD I,Vx (R161) -/
  | addI (x : RegIdx)
  /-- Fx29 LD F,Vx (R162) -/
  | ldF (x : RegIdx)
  /-- Fx33 LD B,Vx (R163) -/
  | ldB (x : RegIdx)
  /-- Fx55 LD [I],Vx (R164) -/
  | storeRegs (x : RegIdx)
  /-- Fx65 LD Vx,[I] (R165) -/
  | loadRegs (x : RegIdx)
  deriving DecidableEq, Repr

end Sys2Proof
end

