-- ==== Sys2Proof/Decode.lean ====
section
/-! DEFINITION. Decode: the fields of a word (R81), the decoder (R84, R85), total on all 65536 words, and after it the
encoder, written from the formats of R82. Decoding reads the word alone (R84). -/

namespace Sys2Proof

/-- op, w[15:12] (R81). -/
def fieldOp (w : Word) : Nibble := w.extractLsb' 12 4

/-- x, w[11:8] (R81). -/
def fieldX (w : Word) : RegIdx := (w.extractLsb' 8 4).toFin

/-- y, w[7:4] (R81). -/
def fieldY (w : Word) : RegIdx := (w.extractLsb' 4 4).toFin

/-- n, w[3:0] (R81). -/
def fieldN (w : Word) : Nibble := w.extractLsb' 0 4

/-- kk, w[7:0] (R81). -/
def fieldKK (w : Word) : Byte := w.extractLsb' 0 8

/-- nnn, w[11:0] (R81). -/
def fieldNNN (w : Word) : Addr := w.extractLsb' 0 12

/-- Big-endian: the byte at the lower address is bits 15 to 8 (R62, R64). -/
def joinBytes (first second : Byte) : Word := first ++ second

/-- Bits 15 to 8 of a word, the byte at the lower address (R64). -/
def highByte (w : Word) : Byte := w.extractLsb' 8 8

/-- Bits 7 to 0 of a word, the byte at the higher address (R64). -/
def lowByte (w : Word) : Byte := w.extractLsb' 0 8

/-- Why a word is no instruction. -/
inductive DecodeError where
  /-- The word matches no row of the opcode map (R86, R221). -/
  | unknownOpcode (instruction : Word)
  deriving DecidableEq, Repr

/-- Family 0: 00E0 and 00EE only; the historical SYS words are unknown (R86, R87). -/
def decodeZero (w : Word) : Except DecodeError Instr :=
  match fieldNNN w with
  | 0x0E0#12 => .ok .cls
  | 0x0EE#12 => .ok .ret
  | _ => .error (.unknownOpcode w)

/-- Family 8, told apart by n (R85, R86). -/
def decodeAlu (w : Word) : Except DecodeError Instr :=
  match fieldN w with
  | 0x0#4 => .ok (.ldReg (fieldX w) (fieldY w))
  | 0x1#4 => .ok (.orReg (fieldX w) (fieldY w))
  | 0x2#4 => .ok (.andReg (fieldX w) (fieldY w))
  | 0x3#4 => .ok (.xorReg (fieldX w) (fieldY w))
  | 0x4#4 => .ok (.addReg (fieldX w) (fieldY w))
  | 0x5#4 => .ok (.subReg (fieldX w) (fieldY w))
  | 0x6#4 => .ok (.shr (fieldX w))
  | 0x7#4 => .ok (.subnReg (fieldX w) (fieldY w))
  | 0xE#4 => .ok (.shl (fieldX w))
  | _ => .error (.unknownOpcode w)

/-- Family E, told apart by kk (R85, R86). -/
def decodeKeys (w : Word) : Except DecodeError Instr :=
  match fieldKK w with
  | 0x9E#8 => .ok (.skp (fieldX w))
  | 0xA1#8 => .ok (.sknp (fieldX w))
  | _ => .error (.unknownOpcode w)

/-- Family F, told apart by kk (R85, R86). -/
def decodeMisc (w : Word) : Except DecodeError Instr :=
  match fieldKK w with
  | 0x07#8 => .ok (.ldVxDT (fieldX w))
  | 0x0A#8 => .ok (.ldVxK (fieldX w))
  | 0x15#8 => .ok (.ldDTVx (fieldX w))
  | 0x18#8 => .ok (.ldSTVx (fieldX w))
  | 0x1E#8 => .ok (.addI (fieldX w))
  | 0x29#8 => .ok (.ldF (fieldX w))
  | 0x33#8 => .ok (.ldB (fieldX w))
  | 0x55#8 => .ok (.storeRegs (fieldX w))
  | 0x65#8 => .ok (.loadRegs (fieldX w))
  | _ => .error (.unknownOpcode w)

/-- Families 5 and 9 match only with n = 0 (R86). -/
def requireNZero (w : Word) (i : Instr) : Except DecodeError Instr :=
  if fieldN w = 0 then .ok i else .error (.unknownOpcode w)

/-- The decode procedure (R84) over the opcode map (R85). The last arm is op = 0xF. -/
def decode (w : Word) : Except DecodeError Instr :=
  match fieldOp w with
  | 0x0#4 => decodeZero w
  | 0x1#4 => .ok (.jp (fieldNNN w))
  | 0x2#4 => .ok (.call (fieldNNN w))
  | 0x3#4 => .ok (.seImm (fieldX w) (fieldKK w))
  | 0x4#4 => .ok (.sneImm (fieldX w) (fieldKK w))
  | 0x5#4 => requireNZero w (.seReg (fieldX w) (fieldY w))
  | 0x6#4 => .ok (.ldImm (fieldX w) (fieldKK w))
  | 0x7#4 => .ok (.addImm (fieldX w) (fieldKK w))
  | 0x8#4 => decodeAlu w
  | 0x9#4 => requireNZero w (.sneReg (fieldX w) (fieldY w))
  | 0xA#4 => .ok (.ldI (fieldNNN w))
  | 0xB#4 => .ok (.jpV0 (fieldNNN w))
  | 0xC#4 => .ok (.rnd (fieldX w) (fieldKK w))
  | 0xD#4 => .ok (.drw (fieldX w) (fieldY w) (fieldN w).toFin)
  | 0xE#4 => decodeKeys w
  | _ => decodeMisc w

/-- Format A of R82: op, then nnn. -/
def formatA (op : Nibble) (nnn : Addr) : Word := op ++ nnn

/-- Formats XK and X of R82: op, x, then kk (an operand, or the fixed low byte mm). -/
def formatXK (op : Nibble) (x : RegIdx) (kk : Byte) : Word := op ++ (BitVec.ofFin x : Nibble) ++ kk

/-- Formats XY and XYN of R82: op, x, y, then n (the fixed m, or the row count). -/
def formatXYN (op : Nibble) (x y : RegIdx) (n : Nibble) : Word :=
  op ++ (BitVec.ofFin x : Nibble) ++ (BitVec.ofFin y : Nibble) ++ n

/-- The encoder: the word of an instruction (R82, R85). SHR and SHL take y = 0 (log entry 12). -/
def encode : Instr → Word
  | .cls => 0x00E0
  | .ret => 0x00EE
  | .jp nnn => formatA 0x1 nnn
  | .call nnn => formatA 0x2 nnn
  | .seImm x kk => formatXK 0x3 x kk
  | .sneImm x kk => formatXK 0x4 x kk
  | .seReg x y => formatXYN 0x5 x y 0x0
  | .ldImm x kk => formatXK 0x6 x kk
  | .addImm x kk => formatXK 0x7 x kk
  | .ldReg x y => formatXYN 0x8 x y 0x0
  | .orReg x y => formatXYN 0x8 x y 0x1
  | .andReg x y => formatXYN 0x8 x y 0x2
  | .xorReg x y => formatXYN 0x8 x y 0x3
  | .addReg x y => formatXYN 0x8 x y 0x4
  | .subReg x y => formatXYN 0x8 x y 0x5
  | .shr x => formatXYN 0x8 x 0 0x6
  | .subnReg x y => formatXYN 0x8 x y 0x7
  | .shl x => formatXYN 0x8 x 0 0xE
  | .sneReg x y => formatXYN 0x9 x y 0x0
  | .ldI nnn => formatA 0xA nnn
  | .jpV0 nnn => formatA 0xB nnn
  | .rnd x kk => formatXK 0xC x kk
  | .drw x y n => formatXYN 0xD x y (BitVec.ofFin n)
  | .skp x => formatXK 0xE x 0x9E
  | .sknp x => formatXK 0xE x 0xA1
  | .ldVxDT x => formatXK 0xF x 0x07
  | .ldVxK x => formatXK 0xF x 0x0A
  | .ldDTVx x => formatXK 0xF x 0x15
  | .ldSTVx x => formatXK 0xF x 0x18
  | .addI x => formatXK 0xF x 0x1E
  | .ldF x => formatXK 0xF x 0x29
  | .ldB x => formatXK 0xF x 0x33
  | .storeRegs x => formatXK 0xF x 0x55
  | .loadRegs x => formatXK 0xF x 0x65

/-- The word a table number stands for: nbits bits of w, the rest 0. -/
def tableWord (nbits w : Nat) : Word := BitVec.ofNat 16 (w % 2 ^ nbits)

/-- The instruction the decoder reads from the table's word: its bytes laid out high byte first (R64), then decoded. -/
def decodeTableWord (nbits w : Nat) : Option Instr :=
  match decode (joinBytes (highByte (tableWord nbits w)) (lowByte (tableWord nbits w))) with
  | .ok i => some i
  | .error _ => none

end Sys2Proof
end

