-- ==== Sys2Proof/Config.lean ====
section
/-! DEFINITION. Config: the fixed parameters of CORE (R5), the configuration inputs an implementation sets (R6, R8)
and the one free value of the spec, the byte RND draws (R9, R151). The inputs are a record of plain data that State
carries in its field cfg; which values State.reset takes stands in Machine/Defaults.lean. -/

namespace Sys2Proof

/-- MEM_SIZE, the number of memory bytes (R5, R60). -/
abbrev memSize : Nat := 4096

/-- FB_W, the frame-buffer columns (R5, R28). -/
abbrev fbWidth : Nat := 64

/-- FB_H, the frame-buffer rows (R5, R28). -/
abbrev fbHeight : Nat := 32

/-- STACK_DEPTH, the entries of the call stack (R5, R24). -/
abbrev stackDepth : Nat := 16

/-- PROGRAM_BASE, where a program is loaded and where PC starts (R5, R67). -/
abbrev programBase : Nat := 0x200

/-- ROM_CAPACITY, the largest program in bytes (R5, R252). -/
abbrev romCapacity : Nat := 3584

/-- The configuration inputs: constant from RESET to RESET (R8, R48), chosen by the implementation. -/
structure Config where
  /-- FONT_BASE. Its type holds R6's constraint FONT_BASE + 80 ≤ 0x200. -/
  fontBase : Fin 0x1B1
  /-- FONT_DATA: 16 glyphs of 5 bytes, top row first (R6, R68). -/
  fontData : Vector (Vector Byte 5) 16
  /-- Q_BORROW_INVERT: SUB and SUBN report a borrow instead of the absence of one (R8, R147, R149). -/
  qBorrowInvert : Bool
  /-- Q_DRAW_WRAP: sprite pixels wrap at the frame's edges instead of being clipped (R8, R173). -/
  qDrawWrap : Bool
  /-- Q_ADDI_VF: ADD I,Vx writes VF (R8, R161). -/
  qAddIVF : Bool
  /-- Q_MEM_INC_I: register store and load advance I (R8, R164, R165). -/
  qMemIncI : Bool
  deriving DecidableEq, Repr

/-- The free input `rnd` of RND: the byte of draw number k, under no law (R9, R151). It has no body, so nothing can be
proved of its values; State counts the draws. DESIGN CHOICE, log entry 3. -/
opaque Config.freeByte : Nat → Byte

end Sys2Proof
end

