-- ==== Sys2Proof/Machine/Defaults.lean ====
section
/-! DEFINITION. Defaults: the configuration State.reset starts with. The spec leaves FONT_BASE and FONT_DATA open and
names the defaults below (R6, R68, decisions D4 and D5); the quirk switches are canonical when false (R8).
DESIGN CHOICE, log entry 1. -/

namespace Sys2Proof.Machine

/-- Glyphs 0 to 7 of the default FONT_DATA (R68). -/
def glyphsLow : Vector (Vector Byte 5) 8 :=
  #v[#v[0xF0, 0x90, 0x90, 0x90, 0xF0], #v[0x20, 0x60, 0x20, 0x20, 0x70],
     #v[0xF0, 0x10, 0xF0, 0x80, 0xF0], #v[0xF0, 0x10, 0xF0, 0x10, 0xF0],
     #v[0x90, 0x90, 0xF0, 0x10, 0x10], #v[0xF0, 0x80, 0xF0, 0x10, 0xF0],
     #v[0xF0, 0x80, 0xF0, 0x90, 0xF0], #v[0xF0, 0x10, 0x20, 0x40, 0x40]]

/-- Glyphs 8 to F of the default FONT_DATA (R68). -/
def glyphsHigh : Vector (Vector Byte 5) 8 :=
  #v[#v[0xF0, 0x90, 0xF0, 0x90, 0xF0], #v[0xF0, 0x90, 0xF0, 0x10, 0xF0],
     #v[0xF0, 0x90, 0xF0, 0x90, 0x90], #v[0xE0, 0x90, 0xE0, 0x90, 0xE0],
     #v[0xF0, 0x80, 0x80, 0x80, 0xF0], #v[0xE0, 0x90, 0x90, 0x90, 0xE0],
     #v[0xF0, 0x80, 0xF0, 0x80, 0xF0], #v[0xF0, 0x80, 0xF0, 0x80, 0x80]]

/-- FONT_BASE 0x050, the customary glyphs, all four quirk switches false. -/
def defaultConfig : Config where
  fontBase := 0x050
  fontData := glyphsLow ++ glyphsHigh
  qBorrowInvert := false
  qDrawWrap := false
  qAddIVF := false
  qMemIncI := false

end Sys2Proof.Machine
end

