-- ==== Sys2Proof/Machine/State.lean ====
section
/-! DEFINITION. State: every piece of state the spec gives CORE (10_state.md R20 to R35), the configuration inputs it
runs under, and the counter of random draws; State.reset is the machine right after RESET (R250). -/

namespace Sys2Proof.Machine

/-- The reasons for which a step of the model stops with a fault: none. Each of the spec's three execution faults
(R220) has an entry the spec describes (R226), so it is TAKEN, as a next state with STATUS Halted and FAULT set; no
access and no register read can fault (R61, R240). Nobody raises a member, since there is none: safe (log entry 4). -/
inductive Fault : Type
  deriving DecidableEq, Repr

/-- The reasons for which an instruction has no meaning. -/
inductive Refusal where
  /-- Raised by an arm of exec whose instruction has no meaning yet. No arm is left so. Safe: the model stops. -/
  | notModelled (mnemonic : String)
  deriving DecidableEq, Repr

/-- STATUS, the run state (R32). -/
inductive Status where
  | running
  /-- Suspended by LD Vx,K until a key-press edge; x is the target register. -/
  | awaitingKey (x : RegIdx)
  /-- After a fault, until RESET or LOAD. -/
  | halted
  deriving DecidableEq, Repr

/-- A recorded fault of the core (R33, R220); FAULT is none or one of these. -/
inductive FaultRecord where
  /-- The raw word and the address it was fetched from (R221). -/
  | unknownOpcode (instruction : Word) (pc : Addr)
  /-- CALL at SP = 16 (R222). -/
  | stackOverflow
  /-- RET at SP = 0 (R223). -/
  | stackUnderflow
  deriving DecidableEq, Repr

/-- MEM as a list of (address, byte) pairs: addresses rising, no entry equal to what an unlisted address reads as. -/
abbrev Memory := List Host.Cell

/-- FB: 32 rows of 64 bits; bit x of row y is FB[y][x] (R28). -/
abbrev FrameBuffer := Vector (BitVec 64) 32

/-- The state of CORE: the tuple of R35, then the model's own fields cfg and draws. -/
structure State where
  /-- MEM (R60). -/
  mem : Memory
  /-- V0 to VF (R20); VF is the flag register (R21). -/
  v : Vector Byte 16
  /-- I, the index register (R22). -/
  i : Addr
  /-- PC, the program counter (R23). -/
  pc : Addr
  /-- STK, the call stack (R24). -/
  stk : Vector Addr 16
  /-- SP, 0 to 16 (R25). -/
  sp : Fin 17
  /-- DT, the delay timer (R26). -/
  dt : Byte
  /-- ST, the sound timer (R27). -/
  st : Byte
  /-- FB, the frame buffer (R28). -/
  fb : FrameBuffer
  /-- DIRTY (R29). -/
  dirty : Bool
  /-- KEY; bit k is KEY[k] (R30). -/
  key : BitVec 16
  /-- KEY_PREV; bit k is KEY_PREV[k] (R31). -/
  keyPrev : BitVec 16
  /-- STATUS (R32). -/
  status : Status
  /-- FAULT (R33). -/
  fault : Option FaultRecord
  /-- The configuration inputs (R6, R8): no state of the spec; no STEP changes them (log entry 2). -/
  cfg : Config
  /-- How many random bytes RND has drawn: the model's own counter (log entry 3). -/
  draws : Nat
  deriving DecidableEq, Repr

/-- The machine right after RESET under a given configuration (R250, R254): memory with nothing listed reads as its
reset content (R67), every register 0, PC at 0x200. -/
def State.resetWith (c : Config) : State where
  mem := []
  v := Vector.replicate 16 0
  i := 0
  pc := BitVec.ofNat 12 programBase
  stk := Vector.replicate 16 0
  sp := 0
  dt := 0
  st := 0
  fb := Vector.replicate 32 0
  dirty := false
  key := 0
  keyPrev := 0
  status := .running
  fault := none
  cfg := c
  draws := 0

/-- The machine right after RESET (R250), under the spec's default configuration (log entry 1). -/
def State.reset : State := State.resetWith defaultConfig

end Sys2Proof.Machine
end

