-- ==== Sys2Proof/Machine/Ops.lean ====
section
/-! DEFINITION. Ops: the named operations over memory, registers, call stack, frame buffer, keys and timers through
which every instruction and every host operation acts, and TAKING A FAULT as one operation (R226). There is no return
from a fault beside it: the only exits from Halted are RESET and LOAD (R230), in HostOps.lean. -/

namespace Sys2Proof.Machine

/-- The outcome of a step. -/
abbrev Result := Host.Outcome State Fault Refusal

/-! ## Memory (20_memory.md) -/

/-- The byte FONT_DATA puts at offset k of the font table: glyph k / 5, row k % 5 (R68). -/
def fontByte (c : Config) (k : Nat) : Byte :=
  if h : k / 5 < 16 then (c.fontData[k / 5]'h)[k % 5]'(Nat.mod_lt _ (by decide)) else 0

/-- The content of address a after RESET (R67, R250): the font table, 0 elsewhere. It is what an unlisted address of
the memory list reads as (log entry 8). -/
def resetByte (c : Config) (a : Nat) : Byte :=
  if c.fontBase.val ≤ a then fontByte c (a - c.fontBase.val) else 0

/-- The byte the list holds for an address; an unlisted address reads as its reset content. -/
def Memory.read (c : Config) (a : Nat) : Memory → Byte
  | [] => resetByte c a
  | cell :: m => if cell.1 = a then cell.2 else Memory.read c a m

/-- The list without any entry for an address. -/
def Memory.erase (a : Nat) : Memory → Memory
  | [] => []
  | cell :: m => if cell.1 = a then Memory.erase a m else cell :: Memory.erase a m

/-- A new entry put before the first entry with a higher address. -/
def Memory.insert (a : Nat) (b : Byte) : Memory → Memory
  | [] => [(a, b)]
  | cell :: m => if a < cell.1 then (a, b) :: cell :: m else cell :: Memory.insert a b m

/-- The list after one byte is written; writing the reset content removes the entry, so the form stays canonical. -/
def Memory.write (c : Config) (a : Nat) (b : Byte) (m : Memory) : Memory :=
  if b = resetByte c a then Memory.erase a m else Memory.insert a b (Memory.erase a m)

/-- The canonical form: addresses strictly rising, inside the address space, no entry equal to its reset content. -/
abbrev Memory.wf (c : Config) (m : Memory) : Prop :=
  m.Pairwise (fun p q => p.1 < q.1) ∧ ∀ p ∈ m, p.1 < memSize ∧ p.2 ≠ resetByte c p.1

/-- MemRead(addr, 1), the address modulo 4096 (R61, R62). -/
def State.memRead (s : State) (addr : Nat) : Byte :=
  Memory.read s.cfg (addr % memSize) s.mem

/-- MemRead(addr, 2): two bytes, high byte at the lower address (R62, R64). -/
def State.memReadWord (s : State) (addr : Nat) : Word :=
  joinBytes (s.memRead addr) (s.memRead (addr + 1))

/-- MemWrite(addr, 1, b), the address modulo 4096 (R61, R63). Every address is writable (R69). -/
def State.memWrite (s : State) (addr : Nat) (b : Byte) : State :=
  { s with mem := Memory.write s.cfg (addr % memSize) b s.mem }

/-- Bytes written one by one at ascending addresses (R63). -/
def State.memWriteList (s : State) (addr : Nat) : List Byte → State
  | [] => s
  | b :: bs => (s.memWrite addr b).memWriteList (addr + 1) bs

/-! ## Registers (R20 to R23) -/

/-- VF, the flag register, is V[15] (R21). -/
def vf : RegIdx := 15

/-- The read V[x]; no register is hard-wired (R20). -/
def State.getV (s : State) (x : RegIdx) : Byte :=
  s.v[x.val]

/-- The write V[x] <- b (R20). -/
def State.setV (s : State) (x : RegIdx) (b : Byte) : State :=
  { s with v := s.v.set x.val b }

/-- The write I <- a (R22). -/
def State.setI (s : State) (a : Addr) : State :=
  { s with i := a }

/-- The write PC <- a (R23). -/
def State.setPc (s : State) (a : Addr) : State :=
  { s with pc := a }

/-- The advance PC <- (PC + 2) mod 4096, of the fetch (R102) and of a taken skip (R128). -/
def State.advance (s : State) : State :=
  s.setPc (s.pc + 2)

/-- A skip: the advance when the condition holds, nothing otherwise (R128). -/
def State.skipIf (s : State) (cond : Bool) : State :=
  if cond then s.advance else s

/-! ## Call stack (R24, R25) -/

/-- STK[SP] <- a, then SP <- SP + 1, for an SP below 16 (R122). -/
def State.push (s : State) (a : Addr) (room : s.sp.val < stackDepth) : State :=
  { s with stk := s.stk.set s.sp.val a room, sp := ⟨s.sp.val + 1, Nat.succ_lt_succ room⟩ }

/-- SP <- SP - 1, then PC <- STK[SP], for an SP above 0; the popped entry stays (R120, R24). -/
def State.popPc (s : State) (live : 0 < s.sp.val) : State :=
  { s with
    pc := s.stk[s.sp.val - 1]'(by have := s.sp.isLt; omega)
    sp := ⟨s.sp.val - 1, by have := s.sp.isLt; omega⟩ }

/-! ## Timers (R26, R27) -/

/-- The write DT <- b. -/
def State.setDT (s : State) (b : Byte) : State :=
  { s with dt := b }

/-- The write ST <- b. -/
def State.setST (s : State) (b : Byte) : State :=
  { s with st := b }

/-- One tick of one timer: down by 1, floor 0 (R233). -/
def tickByte (b : Byte) : Byte :=
  if b = 0 then 0 else b - 1

/-! ## Frame buffer (R28, R29) -/

/-- FB[y][x], false outside the frame. -/
def pixelGet (fb : FrameBuffer) (x y : Nat) : Bool :=
  if h : y < 32 then (fb[y]'h).getLsbD x else false

/-- FB[y][x] <- FB[y][x] ^ 1, for a pixel inside the frame. -/
def pixelFlip (fb : FrameBuffer) (x y : Nat) : FrameBuffer :=
  if h : y < 32 then fb.set y ((fb[y]'h) ^^^ BitVec.twoPow 64 x) h else fb

/-- The pixel FB[y][x] of a state. -/
def State.pixel (s : State) (x y : Nat) : Bool :=
  pixelGet s.fb x y

/-- The frame buffer replaced and DIRTY set: what CLS and DRW do to the screen (R170, R175). -/
def State.setScreen (s : State) (fb : FrameBuffer) : State :=
  { s with fb := fb, dirty := true }

/-! ## Keys and the key wait (R30 to R32) -/

/-- KEY[k] = 1. -/
def State.keyDown (s : State) (k : RegIdx) : Bool :=
  s.key.getLsbD k.val

/-- The key bits with bit k set to the given level (R41). -/
def withKey (keys : BitVec 16) (k : RegIdx) (pressed : Bool) : BitVec 16 :=
  if pressed then keys ||| BitVec.twoPow 16 k.val else keys &&& ~~~(BitVec.twoPow 16 k.val)

/-- E, the keys that went down since the last look: KEY[k] = 1 and KEY_PREV[k] = 0 (R196). -/
def State.edges (s : State) : BitVec 16 :=
  s.key &&& ~~~s.keyPrev

/-- The least member of a set of keys, if it has one (R196). -/
def leastKey (keys : BitVec 16) : Option RegIdx :=
  (List.finRange 16).find? fun k => keys.getLsbD k.val

/-- KEY_PREV <- KEY (R195, R196). -/
def State.sampleKeys (s : State) : State :=
  { s with keyPrev := s.key }

/-- The write of STATUS (R32). -/
def State.setStatus (s : State) (u : Status) : State :=
  { s with status := u }

/-! ## Random byte (R151) -/

/-- The fresh byte of this draw: free, under no law (R9; log entry 3). -/
def State.randomByte (s : State) : Byte :=
  Config.freeByte s.draws

/-- The draw is used up. -/
def State.countDraw (s : State) : State :=
  { s with draws := s.draws + 1 }

/-! ## Taking a fault (R226) -/

/-- What a raise writes: FAULT and STATUS, nothing else; PC keeps the advanced value (R226). -/
def State.faulted (s : State) (f : FaultRecord) : State :=
  { s with fault := some f, status := .halted }

/-- raise F(info): the fault is taken, as a next state. -/
def raise (f : FaultRecord) (s : State) : Result :=
  .next (s.faulted f)

/-- The cause codes (R225). -/
def faultCode : Option FaultRecord → Nat
  | none => 0
  | some (.unknownOpcode _ _) => 1
  | some .stackOverflow => 2
  | some .stackUnderflow => 3

/-! ## Fetch (R101) -/

/-- The word the next STEP fetches: MemRead(PC, 2). -/
def State.fetchWord (s : State) : Word :=
  s.memReadWord s.pc.toNat

/-- The machine with a word laid where the next STEP fetches it, high byte first; a core that is not running is set
running with no fault recorded, as LOAD would leave it (log entry 7). -/
def State.placeWord (s : State) (w : Word) : State :=
  let t := s.memWriteList s.pc.toNat [highByte w, lowByte w]
  match s.status with
  | .running => t
  | .awaitingKey _ => { t with status := .running, fault := none }
  | .halted => { t with status := .running, fault := none }

end Sys2Proof.Machine
end

