-- ==== Sys2Proof/Machine/Flags.lean ====
section
/-! DEFINITION. Flags: every value an instruction writes to VF as a side effect (the table of R21), and the order of
the two writes of a flag-writing instruction (R152). -/

namespace Sys2Proof.Machine

/-- A flag is the byte 1 or 0. -/
def flagByte (b : Bool) : Byte :=
  if b then 1 else 0

/-- The carry of a + b: 1 exactly when the true sum exceeds 255 (R146, R153). -/
def carryFlag (a b : Byte) : Byte :=
  flagByte (decide (a.toNat + b.toNat > 255))

/-- a - b needs no borrow: a ≥ b (R147, R149, R153). -/
def noBorrow (a b : Byte) : Bool :=
  decide (b.toNat ≤ a.toNat)

/-- The flag of a - b: the absence of a borrow, inverted under Q_BORROW_INVERT (R8, R147, R149). -/
def borrowFlag (c : Config) (a b : Byte) : Byte :=
  flagByte (if c.qBorrowInvert then !noBorrow a b else noBorrow a b)

/-- The bit a right shift moves out: old bit 0 (R148). -/
def shiftRightFlag (a : Byte) : Byte :=
  flagByte (a.getLsbD 0)

/-- The bit a left shift moves out: old bit 7 (R150). -/
def shiftLeftFlag (a : Byte) : Byte :=
  flagByte (a.getLsbD 7)

/-- I + V[x] passes the address space (R161, under Q_ADDI_VF). -/
def indexFlag (i : Addr) (b : Byte) : Byte :=
  flagByte (decide (i.toNat + b.toNat > 0xFFF))

/-- The result to V[x] first, the flag to VF second, so that VF ends as the flag when x = 15 (R152). -/
def State.writeResult (s : State) (x : RegIdx) (result flag : Byte) : State :=
  (s.setV x result).setV vf flag

end Sys2Proof.Machine
end

