-- ==== Sys2Proof/Machine/Operands.lean ====
section
/-! DEFINITION. Operands: every operand form the spec gives. Register operands are V[x] and V[y] (getV), immediates
are used as they stand (R83); below are the forms that compute something: the effective address I + k (R166), the key
index (R197), the font address (R162), the offset jump (R127), the decimal digits (R163), the sprite origin (R173). -/

namespace Sys2Proof.Machine

/-- I + k, the address of byte k of a data access; the access reduces it modulo 4096 (R61, R166). -/
def State.dataAddr (s : State) (k : Nat) : Nat :=
  s.i.toNat + k

/-- The register of number k, for k below 16 (the ranges V[0] to V[x] of R164, R165). -/
def regOf (k : Nat) : RegIdx :=
  Fin.ofNat 16 k

/-- The key index V[x][3:0] (R197). -/
def keyIndex (b : Byte) : RegIdx :=
  (b.extractLsb' 0 4).toFin

/-- (FONT_BASE + 5 * b) mod 4096, with no mask on b (R162). -/
def fontAddr (c : Config) (b : Byte) : Addr :=
  BitVec.ofNat 12 (c.fontBase.val + 5 * b.toNat)

/-- (V[0] + nnn) mod 4096 (R127). -/
def offsetTarget (nnn : Addr) (v0 : Byte) : Addr :=
  BitVec.ofNat 12 (v0.toNat + nnn.toNat)

/-- The three decimal digits, most significant first (R163). -/
def bcdDigits (b : Byte) : List Byte :=
  [BitVec.ofNat 8 (b.toNat / 100), BitVec.ofNat 8 (b.toNat / 10 % 10), BitVec.ofNat 8 (b.toNat % 10)]

/-- V[x] mod 64, the origin's column (R173). -/
def originX (b : Byte) : Nat :=
  b.toNat % fbWidth

/-- V[y] mod 32, the origin's row (R173). -/
def originY (b : Byte) : Nat :=
  b.toNat % fbHeight

end Sys2Proof.Machine
end

