-- ==== Sys2Proof/Machine/Alu.lean ====
section
/-! DEFINITION. Alu: register load, arithmetic, logic, shift and random (42_alu.md). Byte arithmetic wraps modulo 256
(R153). -/

namespace Sys2Proof.Machine

/-- LD Vx,kk (R140). -/
def execLdImm (x : RegIdx) (kk : Byte) (s : State) : Result :=
  .next (s.setV x kk)

/-- ADD Vx,kk (R141): no flag. -/
def execAddImm (x : RegIdx) (kk : Byte) (s : State) : Result :=
  .next (s.setV x (s.getV x + kk))

/-- LD Vx,Vy (R142). -/
def execLdReg (x y : RegIdx) (s : State) : Result :=
  .next (s.setV x (s.getV y))

/-- OR Vx,Vy (R143): no flag. -/
def execOrReg (x y : RegIdx) (s : State) : Result :=
  .next (s.setV x (s.getV x ||| s.getV y))

/-- AND Vx,Vy (R144): no flag. -/
def execAndReg (x y : RegIdx) (s : State) : Result :=
  .next (s.setV x (s.getV x &&& s.getV y))

/-- XOR Vx,Vy (R145): no flag. -/
def execXorReg (x y : RegIdx) (s : State) : Result :=
  .next (s.setV x (s.getV x ^^^ s.getV y))

/-- ADD Vx,Vy (R146): VF = carry. -/
def execAddReg (x y : RegIdx) (s : State) : Result :=
  .next (s.writeResult x (s.getV x + s.getV y) (carryFlag (s.getV x) (s.getV y)))

/-- SUB Vx,Vy (R147): V[x] - V[y]. -/
def execSubReg (x y : RegIdx) (s : State) : Result :=
  .next (s.writeResult x (s.getV x - s.getV y) (borrowFlag s.cfg (s.getV x) (s.getV y)))

/-- SHR Vx (R148): V[y] plays no part (R93). -/
def execShr (x : RegIdx) (s : State) : Result :=
  .next (s.writeResult x (s.getV x >>> 1) (shiftRightFlag (s.getV x)))

/-- SUBN Vx,Vy (R149): V[y] - V[x]. -/
def execSubnReg (x y : RegIdx) (s : State) : Result :=
  .next (s.writeResult x (s.getV y - s.getV x) (borrowFlag s.cfg (s.getV y) (s.getV x)))

/-- SHL Vx (R150): V[y] plays no part (R93). -/
def execShl (x : RegIdx) (s : State) : Result :=
  .next (s.writeResult x (s.getV x <<< 1) (shiftLeftFlag (s.getV x)))

/-- V[x] <- byte & kk, for the byte a draw gave (R151). -/
def State.loadMasked (s : State) (x : RegIdx) (kk byte : Byte) : State :=
  s.setV x (byte &&& kk)

/-- RND Vx,kk (R151): a fresh free byte, masked. -/
def execRnd (x : RegIdx) (kk : Byte) (s : State) : Result :=
  .next ((s.loadMasked x kk s.randomByte).countDraw)

end Sys2Proof.Machine
end

