-- ==== Sys2Proof/Machine/ControlTransfer.lean ====
section
/-! DEFINITION. ControlTransfer: RET, JP, CALL, the four register skips, JP V0 (41_control_transfer.md). PC already
holds (pc0 + 2) mod 4096 when a meaning runs (R102). -/

namespace Sys2Proof.Machine

/-- RET (R120): StackUnderflow when SP = 0, else pop PC. -/
def execRet (s : State) : Result :=
  if live : 0 < s.sp.val then .next (s.popPc live) else raise .stackUnderflow s

/-- JP nnn (R121). -/
def execJp (nnn : Addr) (s : State) : Result :=
  .next (s.setPc nnn)

/-- CALL nnn (R122): StackOverflow when SP = 16, else push the advanced PC and jump. -/
def execCall (nnn : Addr) (s : State) : Result :=
  if room : s.sp.val < stackDepth then .next ((s.push s.pc room).setPc nnn) else raise .stackOverflow s

/-- SE Vx,kk (R123). -/
def execSeImm (x : RegIdx) (kk : Byte) (s : State) : Result :=
  .next (s.skipIf (s.getV x == kk))

/-- SNE Vx,kk (R124). -/
def execSneImm (x : RegIdx) (kk : Byte) (s : State) : Result :=
  .next (s.skipIf (s.getV x != kk))

/-- SE Vx,Vy (R125). -/
def execSeReg (x y : RegIdx) (s : State) : Result :=
  .next (s.skipIf (s.getV x == s.getV y))

/-- SNE Vx,Vy (R126). -/
def execSneReg (x y : RegIdx) (s : State) : Result :=
  .next (s.skipIf (s.getV x != s.getV y))

/-- JP V0,nnn (R127): always V[0]. -/
def execJpV0 (nnn : Addr) (s : State) : Result :=
  .next (s.setPc (offsetTarget nnn (s.getV 0)))

end Sys2Proof.Machine
end

