-- ==== Sys2Proof/Machine/Display.lean ====
section
/-! DEFINITION. Display: CLS and the XOR draw engine (44_display.md). -/

namespace Sys2Proof.Machine

/-- A blank frame (R170). -/
def blankFrame : FrameBuffer :=
  Vector.replicate 32 0

/-- CLS (R170): every pixel 0, DIRTY set; VF is not written. -/
def execCls (s : State) : Result :=
  .next (s.setScreen blankFrame)

/-- A draw in progress: the frame, and whether a lit pixel has been turned off so far (R174). -/
structure Drawing where
  fb : FrameBuffer
  hit : Bool
  deriving DecidableEq, Repr

/-- Where a sprite pixel goes: wrapped under Q_DRAW_WRAP, else where it falls (R173). -/
def plotCoord (wrap : Bool) (size p : Nat) : Nat :=
  if wrap then p % size else p

/-- A set sprite bit plotted at (px, py): dropped outside the frame, else the pixel is flipped, and a lit pixel is a
collision (R171, R173, R174). -/
def plotPixel (wrap : Bool) (px py : Nat) (d : Drawing) : Drawing :=
  let x := plotCoord wrap fbWidth px
  let y := plotCoord wrap fbHeight py
  if x < fbWidth ∧ y < fbHeight then ⟨pixelFlip d.fb x y, d.hit || pixelGet d.fb x y⟩ else d

/-- Columns 0 to count - 1 of a sprite row: column c is bit 7 - c, and a 0 bit plots nothing (R172). -/
def plotRow (wrap : Bool) (b : Byte) (ox y : Nat) : Nat → Drawing → Drawing
  | 0, d => d
  | c + 1, d =>
    let e := plotRow wrap b ox y c d
    if b.getLsbD (7 - c) then plotPixel wrap (ox + c) y e else e

/-- Rows 0 to count - 1 of a sprite, each a byte (R172). -/
def plotSprite (wrap : Bool) (row : Nat → Byte) (ox oy : Nat) : Nat → Drawing → Drawing
  | 0, d => d
  | r + 1, d => plotRow wrap (row r) ox (oy + r) 8 (plotSprite wrap row ox oy r d)

/-- The sprite of DRW drawn over the frame: the n bytes from I, at the origin of V[x] and V[y] as they are before VF
is written (R171, R176). -/
def State.drawSprite (s : State) (x y : RegIdx) (n : Nat) : Drawing :=
  plotSprite s.cfg.qDrawWrap (fun r => s.memRead (s.dataAddr r)) (originX (s.getV x)) (originY (s.getV y)) n
    ⟨s.fb, false⟩

/-- DRW Vx,Vy,n (R171): the sprite drawn, VF the collision, DIRTY set; n = 0 draws nothing (R176). -/
def execDrw (x y : RegIdx) (n : Fin 16) (s : State) : Result :=
  let d := s.drawSprite x y n.val
  .next ((s.setScreen d.fb).setV vf (flagByte d.hit))

end Sys2Proof.Machine
end

