-- ==== Sys2Proof/Machine/IndexMemory.lean ====
section
/-! DEFINITION. IndexMemory: the index register and the loads and stores (43_index_memory.md). -/

namespace Sys2Proof.Machine

/-- LD I,nnn (R160). -/
def execLdI (nnn : Addr) (s : State) : Result :=
  .next (s.setI nnn)

/-- I <- (I + k) mod 4096. -/
def State.addToI (s : State) (k : Nat) : State :=
  s.setI (BitVec.ofNat 12 (s.i.toNat + k))

/-- ADD I,Vx (R161): under Q_ADDI_VF the flag is written last, from the old I and V[x]. -/
def execAddI (x : RegIdx) (s : State) : Result :=
  let t := s.addToI (s.getV x).toNat
  .next (if s.cfg.qAddIVF then t.setV vf (indexFlag s.i (s.getV x)) else t)

/-- LD F,Vx (R162): an address only, no memory access. -/
def execLdF (x : RegIdx) (s : State) : Result :=
  .next (s.setI (fontAddr s.cfg (s.getV x)))

/-- LD B,Vx (R163): hundreds, tens, ones at I, I + 1, I + 2; I unchanged. -/
def execLdB (x : RegIdx) (s : State) : Result :=
  .next (s.memWriteList (s.dataAddr 0) (bcdDigits (s.getV x)))

/-- MemWrite(I + k, 1, V[k]) for k = 0 to count - 1, in that order (R164). -/
def State.storeRange (s : State) : Nat → State
  | 0 => s
  | k + 1 => (s.storeRange k).memWrite (s.dataAddr k) (s.getV (regOf k))

/-- V[k] <- MemRead(I + k, 1) for k = 0 to count - 1, in that order (R165). -/
def State.loadRange (s : State) : Nat → State
  | 0 => s
  | k + 1 => (s.loadRange k).setV (regOf k) (s.memRead (s.dataAddr k))

/-- I <- (I + count) mod 4096 under Q_MEM_INC_I, else I unchanged (R8, R166). -/
def State.incIndex (s : State) (count : Nat) : State :=
  if s.cfg.qMemIncI then s.addToI count else s

/-- LD [I],Vx (R164): registers V[0] to V[x]. -/
def execStoreRegs (x : RegIdx) (s : State) : Result :=
  .next ((s.storeRange (x.val + 1)).incIndex (x.val + 1))

/-- LD Vx,[I] (R165): registers V[0] to V[x]. -/
def execLoadRegs (x : RegIdx) (s : State) : Result :=
  .next ((s.loadRange (x.val + 1)).incIndex (x.val + 1))

end Sys2Proof.Machine
end

