-- ==== Sys2Proof/Machine/TimersKeys.lean ====
section
/-! DEFINITION. TimersKeys: the timer copies, the key skips, LD Vx,K and the key wait (45_timers_keys.md). -/

namespace Sys2Proof.Machine

/-- LD Vx,DT (R190). -/
def execLdVxDT (x : RegIdx) (s : State) : Result :=
  .next (s.setV x s.dt)

/-- LD DT,Vx (R191). -/
def execLdDTVx (x : RegIdx) (s : State) : Result :=
  .next (s.setDT (s.getV x))

/-- LD ST,Vx (R192). -/
def execLdSTVx (x : RegIdx) (s : State) : Result :=
  .next (s.setST (s.getV x))

/-- SKP Vx (R193): skip when the key is down. -/
def execSkp (x : RegIdx) (s : State) : Result :=
  .next (s.skipIf (s.keyDown (keyIndex (s.getV x))))

/-- SKNP Vx (R194): skip when the key is up. -/
def execSknp (x : RegIdx) (s : State) : Result :=
  .next (s.skipIf (!s.keyDown (keyIndex (s.getV x))))

/-- LD Vx,K, the entry of the wait (R195): the advance is undone, the key levels are the baseline, STATUS waits. pc0
is (PC - 2) mod 4096, PC being the advanced one (DEDUCED from R102 and R227, log entry 9). -/
def execLdVxK (x : RegIdx) (s : State) : Result :=
  .next (((s.setPc (s.pc - 2)).sampleKeys).setStatus (.awaitingKey x))

/-- A STEP while STATUS is AwaitingKey(x) (R196): with no edge only KEY_PREV is refreshed; else the least key goes to
V[x], PC advances and the core runs again. No instruction is fetched. -/
def pollKeys (x : RegIdx) (s : State) : Result :=
  match leastKey s.edges with
  | none => .next s.sampleKeys
  | some k => .next ((((s.sampleKeys).setV x (BitVec.ofNat 8 k.val)).advance).setStatus .running)

end Sys2Proof.Machine
end

