-- ==== Sys2Proof/Machine/Sequencer.lean ====
section
/-! DEFINITION. Sequencer: what one STEP does while the core runs (40_step_cycle.md R101 to R103). -/

namespace Sys2Proof.Machine

/-- run_instruction (R103): fetch at pc0, advance PC, decode, then execute; a word that is no instruction raises
UnknownOpcode with the raw word and pc0 (R221). -/
def runInstruction (s : State) : Result :=
  match decode s.fetchWord with
  | .ok i => exec i s.advance
  | .error (.unknownOpcode w) => raise (.unknownOpcode w s.pc) s.advance

/-- STEP by STATUS (R100): run, poll the keys, or do nothing at all when Halted (R106). -/
def stepByStatus (s : State) : Result :=
  match s.status with
  | .running => runInstruction s
  | .awaitingKey x => pollKeys x s
  | .halted => .next s

end Sys2Proof.Machine
end

