-- ==== Sys2Proof/Machine/Step.lean ====
section
/-! DEFINITION. Step: the STEP operation (R100), and how the host places an instruction for it. Step answers a next
state always: a fault of the core is taken (R226), as log entry 4 says. -/

namespace Sys2Proof.Machine

/-- One STEP (R100). -/
def step (s : State) : Host.Outcome State Fault Refusal :=
  stepByStatus s

/-- The state with an instruction of nbits table bits placed where the next STEP fetches (log entry 7). -/
def State.withFetchWord (s : State) (nbits w : Nat) : State :=
  s.placeWord (tableWord nbits w)

end Sys2Proof.Machine
end

