-- ==== Sys2Proof/Machine/HostOps.lean ====
section
/-! DEFINITION. HostOps: the nine operations of the environment (R12, R40) with what each returns, as functions of the
state; any list of them is a schedule (R12). -/

namespace Sys2Proof.Machine

/-- The event a STEP returns (R104). -/
inductive Event where
  | continued
  | awaitingKey
  | halted
  deriving DecidableEq, Repr

/-- What a STEP returns: an event or a fault (R100). -/
inductive StepReply where
  | event (e : Event)
  | fault (f : FaultRecord)
  deriving DecidableEq, Repr

/-- The error of LOAD (R224). -/
inductive LoadError where
  | romTooLarge (size capacity : Nat)
  deriving DecidableEq, Repr

/-- What SNAPSHOT returns (R44). -/
structure Snapshot where
  registers : Vector Byte 16
  i : Addr
  pc : Addr
  sp : Fin 17
  delayTimer : Byte
  soundTimer : Byte
  deriving DecidableEq, Repr

/-- What the STEP from s to t returns (R104, R105, R106). The reply is an output, not state, and the two states decide
it: a STEP that began in Halted returns Halted; else one that ends Halted returns the fault it recorded. -/
def stepReply (s t : State) : StepReply :=
  match s.status with
  | .halted => .event .halted
  | _ =>
    match t.status, t.fault with
    | .running, _ => .event .continued
    | .awaitingKey _, _ => .event .awaitingKey
    | .halted, some f => .fault f
    | .halted, none => .event .halted

/-- RESET (R250) under the configuration the host presents with it (R48); the count of random draws goes on, so that
no draw repeats (log entry 11). -/
def State.hostReset (s : State) (c : Config) : State :=
  { State.resetWith c with draws := s.draws }

/-- What a successful LOAD writes beside memory (R251): everything but MEM, KEY and the configuration. -/
def State.clearForLoad (s : State) : State :=
  { State.resetWith s.cfg with mem := s.mem, key := s.key, draws := s.draws }

/-- LOAD(bytes) (R251, R252). -/
def State.load (s : State) (bytes : List Byte) : State × Option LoadError :=
  if bytes.length > romCapacity then (s, some (.romTooLarge bytes.length romCapacity))
  else ((s.memWriteList programBase bytes).clearForLoad, none)

/-- TICK (R233), the same in every STATUS. -/
def State.tick (s : State) : State :=
  { s with dt := tickByte s.dt, st := tickByte s.st }

/-- SET_KEY(k, pressed) (R41). -/
def State.setKey (s : State) (k : RegIdx) (pressed : Bool) : State :=
  { s with key := withKey s.key k pressed }

/-- TAKE_DIRTY, the write (R43): DIRTY <- 0. -/
def State.clearDirty (s : State) : State :=
  { s with dirty := false }

/-- FRAME_BUFFER (R42): the 2048 pixels row-major, index y * 64 + x. -/
def State.frameView (s : State) : List Bool :=
  (List.range (fbWidth * fbHeight)).map fun k => s.pixel (k % fbWidth) (k / fbWidth)

/-- SNAPSHOT (R44). -/
def State.snapshot (s : State) : Snapshot where
  registers := s.v
  i := s.i
  pc := s.pc
  sp := s.sp
  delayTimer := s.dt
  soundTimer := s.st

/-- SOUND_ACTIVE (R45): ST ≠ 0. -/
def State.soundActive (s : State) : Bool :=
  s.st != 0

/-- The nine operations (R12). The arguments' types hold what the host never presents (R41, R48). -/
inductive HostOp where
  | reset (c : Config)
  | load (bytes : List Byte)
  | step
  | tick
  | setKey (k : RegIdx) (pressed : Bool)
  | takeDirty
  | frameBuffer
  | snapshot
  | soundActive
  deriving DecidableEq, Repr

/-- What an operation returns to the host (R40). -/
inductive Reply where
  | none
  | loaded (err : Option LoadError)
  | stepped (r : StepReply)
  /-- The model has no meaning for the instruction; no instruction is left so. -/
  | notRun (r : Refusal)
  | dirty (b : Bool)
  | pixels (bits : List Bool)
  | snapshot (s : Snapshot)
  | sound (b : Bool)
  deriving DecidableEq, Repr

/-- The STEP operation: the next state with its event or fault. -/
def State.hostStep (s : State) : State × Reply :=
  match step s with
  | .next t => (t, .stepped (stepReply s t))
  | .fault f => nomatch f
  | .refused r => (s, .notRun r)

/-- One operation of the environment, atomic (R12). -/
def HostOp.apply (op : HostOp) (s : State) : State × Reply :=
  match op with
  | .reset c => (s.hostReset c, .none)
  | .load bytes => ((s.load bytes).1, .loaded (s.load bytes).2)
  | .step => s.hostStep
  | .tick => (s.tick, .none)
  | .setKey k pressed => (s.setKey k pressed, .none)
  | .takeDirty => (s.clearDirty, .dirty s.dirty)
  | .frameBuffer => (s, .pixels s.frameView)
  | .snapshot => (s, .snapshot s.snapshot)
  | .soundActive => (s, .sound s.soundActive)

/-- A schedule: operations issued one after another, in any order and number (R12). -/
def runOps (s : State) : List HostOp → State
  | [] => s
  | op :: ops => runOps (op.apply s).1 ops

end Sys2Proof.Machine
end

