-- ==== Sys2Proof/Safety.lean ====
section
/-! DEFINITION. Safety: the terms the statements use: the invariant of every reachable state, the predicates that say
which part of the state a step leaves unchanged, and the customary end of a run. -/

namespace Sys2Proof.Machine

/-- What a recorded fault says of the state it was left in (R221 to R223, R226): the word is no instruction and PC is
just past it; or the stack is full; or it is empty. -/
def FaultRecord.explains (s : State) : FaultRecord → Prop
  | .unknownOpcode w pc0 => decode w = .error (.unknownOpcode w) ∧ s.pc = pc0 + 2
  | .stackOverflow => s.sp.val = stackDepth
  | .stackUnderflow => s.sp.val = 0

/-- FAULT and STATUS agree: FAULT is None exactly when the core is not Halted (R33), and a recorded fault explains the
state it left. -/
def State.faultAgrees (s : State) : Prop :=
  (s.fault ≠ none ↔ s.status = .halted) ∧ ∀ f, s.fault = some f → f.explains s

/-- While the core waits, PC is the address of a LD Vx,K with the same x (R23, R195). -/
def State.waitAgrees (s : State) : Prop :=
  ∀ x, s.status = .awaitingKey x → decode s.fetchWord = .ok (.ldVxK x)

/-- The invariant: memory is in canonical form, FAULT and STATUS agree, a wait stands at its own instruction. -/
structure State.Inv (s : State) : Prop where
  memory : Memory.wf s.cfg s.mem
  fault : s.faultAgrees
  wait : s.waitAgrees

/-- Every general register reads as before. -/
def SameRegs (s t : State) : Prop :=
  ∀ r, t.getV r = s.getV r

/-- Every byte of memory reads as before. -/
def SameMemory (s t : State) : Prop :=
  ∀ a, t.memRead a = s.memRead a

/-- The call stack and SP are as before. -/
def SameStack (s t : State) : Prop :=
  t.sp = s.sp ∧ t.stk = s.stk

/-- Both timers are as before. -/
def SameTimers (s t : State) : Prop :=
  t.dt = s.dt ∧ t.st = s.st

/-- Every pixel and DIRTY are as before. -/
def SameScreen (s t : State) : Prop :=
  (∀ x y, t.pixel x y = s.pixel x y) ∧ t.dirty = s.dirty

/-- KEY and KEY_PREV are as before. -/
def SameKeys (s t : State) : Prop :=
  t.key = s.key ∧ t.keyPrev = s.keyPrev

/-- STATUS, FAULT and the configuration inputs are as before. -/
def SameControl (s t : State) : Prop :=
  t.status = s.status ∧ t.fault = s.fault ∧ t.cfg = s.cfg

/-- Nothing outside the general registers, I and PC has changed, and no random byte was drawn: the frame of the
instructions that write only registers. -/
structure OnlyRegisters (s t : State) : Prop where
  memory : SameMemory s t
  stack : SameStack s t
  timers : SameTimers s t
  screen : SameScreen s t
  keys : SameKeys s t
  control : SameControl s t
  draws : t.draws = s.draws

/-- One general register is written, and nothing else changes. -/
structure SetsReg (s t : State) (x : RegIdx) (b : Byte) : Prop where
  regs : ∀ r, t.getV r = if r = x then b else s.getV r
  index : t.i = s.i
  pc : t.pc = s.pc
  rest : OnlyRegisters s t

/-- A result and a flag are written, VF ending as the flag also when x = 15 (R152); nothing else changes. -/
structure SetsRegAndFlag (s t : State) (x : RegIdx) (b f : Byte) : Prop where
  regs : ∀ r, t.getV r = if r = vf then f else if r = x then b else s.getV r
  index : t.i = s.i
  pc : t.pc = s.pc
  rest : OnlyRegisters s t

/-- The general registers an instruction may write: its destination, VF where R21 lists it as a side effect, and the
range of the register load. -/
def mayWriteReg (c : Config) (r : RegIdx) : Instr → Prop
  | .ldImm x _ | .addImm x _ | .ldReg x _ | .orReg x _ | .andReg x _ | .xorReg x _ | .rnd x _ | .ldVxDT x => r = x
  | .addReg x _ | .subReg x _ | .shr x | .subnReg x _ | .shl x => r = x ∨ r = vf
  | .drw _ _ _ => r = vf
  | .addI _ => c.qAddIVF = true ∧ r = vf
  | .loadRegs x => r ≤ x
  | .cls | .ret | .jp _ | .call _ | .seImm _ _ | .sneImm _ _ | .seReg _ _ | .sneReg _ _ | .ldI _ | .jpV0 _ | .skp _
  | .sknp _ | .ldVxK _ | .ldDTVx _ | .ldSTVx _ | .ldF _ | .ldB _ | .storeRegs _ => False

/-- The instructions that may write I (R22). -/
def mayWriteI (c : Config) : Instr → Prop
  | .ldI _ | .addI _ | .ldF _ => True
  | .storeRegs _ | .loadRegs _ => c.qMemIncI = true
  | .cls | .ret | .jp _ | .call _ | .seImm _ _ | .sneImm _ _ | .seReg _ _ | .ldImm _ _ | .addImm _ _ | .ldReg _ _
  | .orReg _ _ | .andReg _ _ | .xorReg _ _ | .addReg _ _ | .subReg _ _ | .shr _ | .subnReg _ _ | .shl _ | .sneReg _ _
  | .jpV0 _ | .rnd _ _ | .drw _ _ _ | .skp _ | .sknp _ | .ldVxDT _ | .ldVxK _ | .ldDTVx _ | .ldSTVx _
  | .ldB _ => False

/-- The instructions that may write PC beyond the advance (R23): transfers, skips and the key wait. -/
def mayWritePc : Instr → Prop
  | .ret | .jp _ | .call _ | .seImm _ _ | .sneImm _ _ | .seReg _ _ | .sneReg _ _ | .jpV0 _ | .skp _ | .sknp _
  | .ldVxK _ => True
  | .cls | .ldImm _ _ | .addImm _ _ | .ldReg _ _ | .orReg _ _ | .andReg _ _ | .xorReg _ _ | .addReg _ _ | .subReg _ _
  | .shr _ | .subnReg _ _ | .shl _ | .ldI _ | .rnd _ _ | .drw _ _ _ | .ldVxDT _ | .ldDTVx _ | .ldSTVx _ | .addI _
  | .ldF _ | .ldB _ | .storeRegs _ | .loadRegs _ => False

/-- Sprite pixel coverage (R171 to R173): some set bit of the n sprite rows at I is plotted at column px, row py, the
origin and the rows being those of the state before the draw. -/
def spriteCovers (s : State) (x y : RegIdx) (n px py : Nat) : Prop :=
  ∃ r < n, ∃ c < 8, (s.memRead (s.i.toNat + r)).getLsbD (7 - c) = true ∧
    px = plotCoord s.cfg.qDrawWrap 64 ((s.getV x).toNat % 64 + c) ∧
    py = plotCoord s.cfg.qDrawWrap 32 ((s.getV y).toNat % 32 + r)

/-- Key k went down since the wait last looked (R196). -/
def State.keyEdge (s : State) (k : RegIdx) : Prop :=
  s.key.getLsbD k.val = true ∧ s.keyPrev.getLsbD k.val = false

/-- R266: the core runs and the next instruction is a jump to itself. It says nothing of the host (R266). -/
def State.atSelfJump (s : State) : Prop :=
  s.status = .running ∧ s.fetchWord = 0x1000 + s.pc.setWidth 16

end Sys2Proof.Machine
end

