-- ==== Sys2Proof/WellFormed.lean ====
section
/-! DEFINITION. WellFormed: which 16-bit words are instructions. R84: row r of opcode_table.json matches a word w when
w AND the row's mask equals the row's match value; R86: a word that matches no row is no instruction. Every operand
field of a word that matches is legal whatever it holds (R83, R176), so a term of Instr needs no check of its own: its
fields have exactly the widths of R81. -/

namespace Sys2Proof

/-- A row of the opcode table: the fixed bits (mask) and their values (pattern) (R84, R85). -/
structure OpcodeRow where
  mnemonic : String
  mask : Word
  pattern : Word
  deriving DecidableEq, Repr

/-- R84: the row matches the word. -/
def OpcodeRow.fits (r : OpcodeRow) (w : Word) : Bool :=
  w &&& r.mask == r.pattern

/-- The row of opcode_table.json each instruction stands for (R85). -/
def Instr.row : Instr → OpcodeRow
  | .cls => ⟨"CLS", 0xFFFF, 0x00E0⟩
  | .ret => ⟨"RET", 0xFFFF, 0x00EE⟩
  | .jp _ => ⟨"JP_nnn", 0xF000, 0x1000⟩
  | .call _ => ⟨"CALL_nnn", 0xF000, 0x2000⟩
  | .seImm _ _ => ⟨"SE_Vx_kk", 0xF000, 0x3000⟩
  | .sneImm _ _ => ⟨"SNE_Vx_kk", 0xF000, 0x4000⟩
  | .seReg _ _ => ⟨"SE_Vx_Vy", 0xF00F, 0x5000⟩
  | .ldImm _ _ => ⟨"LD_Vx_kk", 0xF000, 0x6000⟩
  | .addImm _ _ => ⟨"ADD_Vx_kk", 0xF000, 0x7000⟩
  | .ldReg _ _ => ⟨"LD_Vx_Vy", 0xF00F, 0x8000⟩
  | .orReg _ _ => ⟨"OR_Vx_Vy", 0xF00F, 0x8001⟩
  | .andReg _ _ => ⟨"AND_Vx_Vy", 0xF00F, 0x8002⟩
  | .xorReg _ _ => ⟨"XOR_Vx_Vy", 0xF00F, 0x8003⟩
  | .addReg _ _ => ⟨"ADD_Vx_Vy", 0xF00F, 0x8004⟩
  | .subReg _ _ => ⟨"SUB_Vx_Vy", 0xF00F, 0x8005⟩
  | .shr _ => ⟨"SHR_Vx", 0xF00F, 0x8006⟩
  | .subnReg _ _ => ⟨"SUBN_Vx_Vy", 0xF00F, 0x8007⟩
  | .shl _ => ⟨"SHL_Vx", 0xF00F, 0x800E⟩
  | .sneReg _ _ => ⟨"SNE_Vx_Vy", 0xF00F, 0x9000⟩
  | .ldI _ => ⟨"LD_I_nnn", 0xF000, 0xA000⟩
  | .jpV0 _ => ⟨"JP_V0_nnn", 0xF000, 0xB000⟩
  | .rnd _ _ => ⟨"RND_Vx_kk", 0xF000, 0xC000⟩
  | .drw _ _ _ => ⟨"DRW_Vx_Vy_n", 0xF000, 0xD000⟩
  | .skp _ => ⟨"SKP_Vx", 0xF0FF, 0xE09E⟩
  | .sknp _ => ⟨"SKNP_Vx", 0xF0FF, 0xE0A1⟩
  | .ldVxDT _ => ⟨"LD_Vx_DT", 0xF0FF, 0xF007⟩
  | .ldVxK _ => ⟨"LD_Vx_K", 0xF0FF, 0xF00A⟩
  | .ldDTVx _ => ⟨"LD_DT_Vx", 0xF0FF, 0xF015⟩
  | .ldSTVx _ => ⟨"LD_ST_Vx", 0xF0FF, 0xF018⟩
  | .addI _ => ⟨"ADD_I_Vx", 0xF0FF, 0xF01E⟩
  | .ldF _ => ⟨"LD_F_Vx", 0xF0FF, 0xF029⟩
  | .ldB _ => ⟨"LD_B_Vx", 0xF0FF, 0xF033⟩
  | .storeRegs _ => ⟨"LD__I__Vx", 0xF0FF, 0xF055⟩
  | .loadRegs _ => ⟨"LD_Vx__I", 0xF0FF, 0xF065⟩

/-- The rows of families 0 to 6. -/
def rowsLow : List OpcodeRow :=
  [Instr.row (.cls),
   Instr.row (.ret),
   Instr.row (.jp 0),
   Instr.row (.call 0),
   Instr.row (.seImm 0 0),
   Instr.row (.sneImm 0 0),
   Instr.row (.seReg 0 0),
   Instr.row (.ldImm 0 0)]

/-- The rows of family 7 and the 8xyn family. -/
def rowsAlu : List OpcodeRow :=
  [Instr.row (.addImm 0 0),
   Instr.row (.ldReg 0 0),
   Instr.row (.orReg 0 0),
   Instr.row (.andReg 0 0),
   Instr.row (.xorReg 0 0),
   Instr.row (.addReg 0 0),
   Instr.row (.subReg 0 0),
   Instr.row (.shr 0),
   Instr.row (.subnReg 0 0),
   Instr.row (.shl 0)]

/-- The rows of families 9 to E. -/
def rowsMid : List OpcodeRow :=
  [Instr.row (.sneReg 0 0),
   Instr.row (.ldI 0),
   Instr.row (.jpV0 0),
   Instr.row (.rnd 0 0),
   Instr.row (.drw 0 0 0),
   Instr.row (.skp 0),
   Instr.row (.sknp 0)]

/-- The rows of the Fxkk family. -/
def rowsF : List OpcodeRow :=
  [Instr.row (.ldVxDT 0),
   Instr.row (.ldVxK 0),
   Instr.row (.ldDTVx 0),
   Instr.row (.ldSTVx 0),
   Instr.row (.addI 0),
   Instr.row (.ldF 0),
   Instr.row (.ldB 0),
   Instr.row (.storeRegs 0),
   Instr.row (.loadRegs 0)]

/-- The whole opcode table, in its order (R85). -/
def opcodeRows : List OpcodeRow :=
  rowsLow ++ rowsAlu ++ rowsMid ++ rowsF

/-- The word is the word of an instruction: some row of the table matches it (R84, R86). -/
def wellFormed (w : Word) : Bool :=
  opcodeRows.any fun r => r.fits w

end Sys2Proof
end

