-- ==== Sys2Proof/Certificates/Slice0/Obligations.lean ====
section
/-! DEFINITION. Obligations: the statements about CORE, from the spec's numbered rules. PC in a state given to exec is
the advanced one, as in the spec's pseudocode (R102). Every statement holds for every configuration: the quirk switches
and the font are the state's cfg. -/

open Sys2Proof Sys2Proof.Machine

/-! ## Encoding -/

/-- R82, R84, R85: decoding the encoder's word of any instruction, with every operand, gives that instruction back. -/
def Obligations.DecodeOfEncode : Prop :=
  ∀ i : Instr, decode (encode i) = .ok i

/-- R84: a word decodes to an instruction exactly when a row of the table matches it, the row is the instruction's own
and the only one that matches, and a running core raises UnknownOpcode with the raw word and pc0 when none does. -/
def Obligations.DecodeByTable : Prop :=
  (∀ (w : Word) (i : Instr), decode w = .ok i →
      i.row ∈ opcodeRows ∧ ∀ r ∈ opcodeRows, r.fits w = true ↔ r = i.row) ∧
  (∀ w : Word, wellFormed w = true ↔ ∃ i, decode w = .ok i) ∧
  (∀ s : State, s.status = .running → (∀ r ∈ opcodeRows, r.fits s.fetchWord = false) →
      step s = .next { s with
        pc := s.pc + 2, status := .halted, fault := some (.unknownOpcode s.fetchWord s.pc) })

/-- R86, R87: the words that are no instruction, family by family. -/
def Obligations.UnknownWords : Prop :=
  ∀ w : Word, decode w = .error (.unknownOpcode w) ↔
    (fieldOp w = 0x0 ∧ fieldNNN w ≠ 0x0E0 ∧ fieldNNN w ≠ 0x0EE) ∨
    (fieldOp w = 0x5 ∧ fieldN w ≠ 0) ∨
    (fieldOp w = 0x8 ∧ fieldN w ∈ [0x8, 0x9, 0xA, 0xB, 0xC, 0xD, 0xF]) ∨
    (fieldOp w = 0x9 ∧ fieldN w ≠ 0) ∨
    (fieldOp w = 0xE ∧ fieldKK w ∉ [0x9E, 0xA1]) ∨
    (fieldOp w = 0xF ∧ fieldKK w ∉ [0x07, 0x0A, 0x15, 0x18, 0x1E, 0x29, 0x33, 0x55, 0x65])

/-- R93: SHR and SHL ignore y; no other instruction has an ignored field, so two words of one instruction are equal
but for the y nibble of a shift. -/
def Obligations.IgnoredFields : Prop :=
  (∀ x y : RegIdx, decode (formatXYN 0x8 x y 0x6) = .ok (.shr x) ∧ decode (formatXYN 0x8 x y 0xE) = .ok (.shl x)) ∧
  (∀ (w u : Word) (i : Instr), decode w = .ok i → decode u = .ok i →
      w = u ∨ ((∃ x, i = .shr x ∨ i = .shl x) ∧ w &&& 0xFF0F = u &&& 0xFF0F))

/-- R92: the words the source itself gives. -/
def Obligations.SourceWords : Prop :=
  decode 0x6A3C = .ok (.ldImm 0xA 0x3C) ∧ decode 0xA2F0 = .ok (.ldI 0x2F0) ∧
  decode 0x8014 = .ok (.addReg 0 1) ∧ decode 0x8015 = .ok (.subReg 0 1)

/-! ## STEP -/

/-- R101, R102, R103: a running core whose two bytes at PC, high byte first and wrapping at the top of memory, decode
to an instruction executes it, with PC advanced by 2 modulo 4096 before. -/
def Obligations.StepRunsInstruction : Prop :=
  ∀ (s : State) (i : Instr), s.status = .running →
    decode (joinBytes (s.memRead s.pc.toNat) (s.memRead ((s.pc.toNat + 1) % 4096))) = .ok i →
    step s = exec i { s with pc := s.pc + 2 }

/-- R221: a running core raises UnknownOpcode exactly when the fetched word is no instruction, recording the raw word
and the address it was fetched from. -/
def Obligations.UnknownOpcodeRaised : Prop :=
  ∀ s t : State, s.status = .running → step s = .next t →
    (∀ w pc, stepReply s t = .fault (.unknownOpcode w pc) ↔
      (∀ i, decode s.fetchWord ≠ .ok i) ∧ w = s.fetchWord ∧ pc = s.pc)

/-- R226: a faulting STEP leaves the state before it with exactly three changes: PC advanced, STATUS Halted, FAULT
set to the fault it returns. -/
def Obligations.FaultEntry : Prop :=
  ∀ (s t : State) (f : FaultRecord), step s = .next t → stepReply s t = .fault f →
    t = { s with pc := s.pc + 2, status := .halted, fault := some f }

/-- R105: a STEP from Running faults in the three cases only, and then ends Halted; a STEP from AwaitingKey or Halted
does not fault. -/
def Obligations.StepFaults : Prop :=
  ∀ s t : State, step s = .next t →
    (s.status = .running →
      ((∃ f, stepReply s t = .fault f) ↔
        (∀ i, decode s.fetchWord ≠ .ok i) ∨
        ((∃ nnn, decode s.fetchWord = .ok (.call nnn)) ∧ s.sp.val = 16) ∨
        (decode s.fetchWord = .ok .ret ∧ s.sp.val = 0)) ∧
      (stepReply s t = .fault .stackOverflow ↔ (∃ nnn, decode s.fetchWord = .ok (.call nnn)) ∧ s.sp.val = 16) ∧
      (stepReply s t = .fault .stackUnderflow ↔ decode s.fetchWord = .ok .ret ∧ s.sp.val = 0) ∧
      ((∃ f, stepReply s t = .fault f) → t.status = .halted)) ∧
    (s.status ≠ .running → ∀ f, stepReply s t ≠ .fault f)

/-- R106: a STEP of a Halted core changes nothing and returns the event Halted. -/
def Obligations.HaltedStep : Prop :=
  ∀ s : State, s.status = .halted → step s = .next s ∧ stepReply s s = .event .halted

/-- R104: which event a STEP returns. -/
def Obligations.StepEvents : Prop :=
  ∀ s t : State, step s = .next t →
    (stepReply s t = .event .continued ↔
      (s.status = .running ∧ (∃ i, decode s.fetchWord = .ok i ∧ ∀ x, i ≠ .ldVxK x) ∧ t.status = .running) ∨
      ((∃ x, s.status = .awaitingKey x) ∧ (∃ k, s.keyEdge k) ∧ t.status = .running)) ∧
    (stepReply s t = .event .awaitingKey ↔
      (s.status = .running ∧ ∃ x, decode s.fetchWord = .ok (.ldVxK x) ∧ t.status = .awaitingKey x) ∨
      (∃ x, s.status = .awaitingKey x ∧ (∀ k, ¬s.keyEdge k) ∧ t.status = .awaitingKey x)) ∧
    (stepReply s t = .event .halted ↔ s.status = .halted) ∧
    (∀ e, stepReply s t = .event e → (t.status = .running ↔ e = .continued))

/-- R61, R88, R220, R226: every STEP of every state answers a next state: nothing is refused, and no access faults.
That a fault of the core is itself a next state is the model's reading of R226 (DEDUCED, log entry 4). -/
def Obligations.StepAnswers : Prop :=
  ∀ s : State, ∃ t, step s = .next t

/-- R196: the poll of a key wait, with and without an edge; the least key with an edge wins. -/
def Obligations.PollKeys : Prop :=
  ∀ (s : State) (x : RegIdx), s.status = .awaitingKey x →
    ((∀ k, ¬s.keyEdge k) →
      step s = .next { s with keyPrev := s.key } ∧
      stepReply s { s with keyPrev := s.key } = .event .awaitingKey) ∧
    (∀ k, s.keyEdge k → (∀ j, j < k → ¬s.keyEdge j) →
      ∃ t, step s = .next t ∧ stepReply s t = .event .continued ∧
        (∀ r, t.getV r = if r = x then BitVec.ofNat 8 k.val else s.getV r) ∧
        t = { s with v := t.v, keyPrev := s.key, pc := s.pc + 2, status := .running })

/-! ## RESET, LOAD and the other host operations -/

/-- R250: what RESET leaves, in every state of the core and for every configuration presented with it. -/
def Obligations.ResetValues : Prop :=
  ∀ (s : State) (c : Config),
    (∀ (d : Fin 16) (row : Fin 5),
      ((HostOp.reset c).apply s).1.memRead (c.fontBase.val + 5 * d.val + row.val) = c.fontData[d][row]) ∧
    (∀ a < 4096, (a < c.fontBase.val ∨ c.fontBase.val + 80 ≤ a) → ((HostOp.reset c).apply s).1.memRead a = 0) ∧
    (∀ r, ((HostOp.reset c).apply s).1.getV r = 0) ∧
    (∀ j : Fin 16, ((HostOp.reset c).apply s).1.stk[j] = 0) ∧
    (∀ x y, ((HostOp.reset c).apply s).1.pixel x y = false) ∧
    (∀ k, ((HostOp.reset c).apply s).1.keyDown k = false) ∧
    (∃ t, (HostOp.reset c).apply s = (t, .none) ∧
      t.i = 0 ∧ t.pc = 0x200 ∧ t.sp = 0 ∧ t.dt = 0 ∧ t.st = 0 ∧ t.dirty = false ∧ t.keyPrev = 0 ∧
      t.status = .running ∧ t.fault = none)

/-- R250 and log entries 1 and 3: State.reset is what RESET leaves under the spec's default configuration, which the
model chose, with no random byte drawn (the model's choice too). -/
def Obligations.ResetState : Prop :=
  ∀ s : State, ((HostOp.reset defaultConfig).apply s).1 = { State.reset with draws := s.draws } ∧
    State.reset.draws = 0

/-- The invariant holds at State.reset. -/
def Obligations.InvAtReset : Prop :=
  State.reset.Inv

/-- Every STEP keeps the invariant: canonical memory (R67), FAULT recorded exactly when Halted and true of the state
(R33, R221 to R223), a wait standing at its own LD Vx,K (R23, R195). -/
def Obligations.StepKeepsInv : Prop :=
  ∀ s t : State, s.Inv → step s = .next t → t.Inv

/-- Every operation of the host keeps the invariant, so it holds after every schedule from State.reset (R12). -/
def Obligations.HostOpsKeepInv : Prop :=
  (∀ (s : State) (op : HostOp), s.Inv → (op.apply s).1.Inv) ∧ ∀ ops, (runOps State.reset ops).Inv

/-- R8, R48: no operation but RESET changes the configuration inputs; a RESET leaves those presented with it, which is
the model's form of R48 (log entry 11). -/
def Obligations.ConfigConstant : Prop :=
  (∀ (s : State) (op : HostOp), (∀ c, op ≠ .reset c) → (op.apply s).1.cfg = s.cfg) ∧
  (∀ (s : State) (c : Config), ((HostOp.reset c).apply s).1.cfg = c)

/-- R251, R252: a LOAD of at most 3584 bytes copies them to 0x200, clears what R251 lists and leaves other memory and
KEY; a longer one returns ROMTooLarge and changes nothing. -/
def Obligations.LoadProgram : Prop :=
  (∀ (s : State) (bytes : List Byte), bytes.length ≤ 3584 →
    ∃ t, (HostOp.load bytes).apply s = (t, .loaded none) ∧
      (∀ (j : Nat) (h : j < bytes.length), t.memRead (0x200 + j) = bytes[j]) ∧
      (∀ a < 4096, (a < 0x200 ∨ 0x200 + bytes.length ≤ a) → t.memRead a = s.memRead a) ∧
      t.pc = 0x200 ∧ (∀ r, t.getV r = 0) ∧ t.sp = 0 ∧ (∀ j : Fin 16, t.stk[j] = 0) ∧ t.dt = 0 ∧ t.st = 0 ∧
      t.i = 0 ∧ (∀ x y, t.pixel x y = false) ∧ t.dirty = false ∧ t.keyPrev = 0 ∧
      t.status = .running ∧ t.fault = none ∧ t.key = s.key ∧ t.cfg = s.cfg) ∧
  (∀ (s : State) (bytes : List Byte), 3584 < bytes.length →
    (HostOp.load bytes).apply s = (s, .loaded (some (.romTooLarge bytes.length 3584))))

/-- R253: after RESET and LOAD the first STEP runs the word at 0x200, high byte first, over cleared registers; after
RESET without LOAD it raises UnknownOpcode for the word 0x0000 at 0x200. -/
def Obligations.BootSequence : Prop :=
  (∀ (s : State) (c : Config) (hi lo : Byte) (rest : List Byte) (i : Instr), rest.length + 2 ≤ 3584 →
    decode (joinBytes hi lo) = .ok i →
    ∃ t, runOps s [.reset c, .load (hi :: lo :: rest)] = t ∧ step t = exec i { t with pc := 0x202 } ∧
      (∀ r, t.getV r = 0) ∧ t.sp = 0) ∧
  (∀ (s : State) (c : Config),
    ∃ t, step (runOps s [.reset c]) = .next t ∧ t.status = .halted ∧ t.fault = some (.unknownOpcode 0x0000 0x200))

/-- R233: TICK takes both timers down by one with floor 0, changes nothing else, in every STATUS. -/
def Obligations.Tick : Prop :=
  ∀ s : State, ∃ t, HostOp.tick.apply s = (t, .none) ∧
    t.dt.toNat = s.dt.toNat - 1 ∧ t.st.toNat = s.st.toNat - 1 ∧ t = { s with dt := t.dt, st := t.st }

/-- R234: after n TICKs a timer that held v holds v - n, with floor 0, so it reaches 0 after exactly v. -/
def Obligations.TicksToZero : Prop :=
  ∀ (s : State) (n : Nat),
    (runOps s (List.replicate n .tick)).dt.toNat = s.dt.toNat - n ∧
    (runOps s (List.replicate n .tick)).st.toNat = s.st.toNat - n

/-- R41: SET_KEY sets one key level and changes nothing else. -/
def Obligations.SetKey : Prop :=
  ∀ (s : State) (k : RegIdx) (pressed : Bool), ∃ t, (HostOp.setKey k pressed).apply s = (t, .none) ∧
    (∀ j, t.keyDown j = if j = k then pressed else s.keyDown j) ∧ t = { s with key := t.key }

/-- R42, R43, R44, R45: what the four reading operations return, and that only TAKE_DIRTY changes anything, DIRTY
alone. -/
def Obligations.HostReads : Prop :=
  ∀ s : State,
    (∃ bits, HostOp.frameBuffer.apply s = (s, .pixels bits) ∧ bits.length = 2048 ∧
      ∀ x y, x < 64 → y < 32 → bits[y * 64 + x]? = some (s.pixel x y)) ∧
    HostOp.takeDirty.apply s = ({ s with dirty := false }, .dirty s.dirty) ∧
    (∃ n, HostOp.snapshot.apply s = (s, .snapshot n) ∧ (∀ r : RegIdx, n.registers[r] = s.getV r) ∧
      n.i = s.i ∧ n.pc = s.pc ∧ n.sp = s.sp ∧ n.delayTimer = s.dt ∧ n.soundTimer = s.st) ∧
    (∃ b, HostOp.soundActive.apply s = (s, .sound b) ∧ (b = true ↔ s.st ≠ 0))

/-- R230: nothing but RESET and LOAD leaves Halted, and the recorded fault stays until then (R231). -/
def Obligations.HaltedStays : Prop :=
  ∀ (s : State) (op : HostOp), s.status = .halted → (∀ c, op ≠ .reset c) → (∀ b, op ≠ .load b) →
    (op.apply s).1.status = .halted ∧ (op.apply s).1.fault = s.fault

/-- R198, R32: a key wait ends only by RESET, by LOAD, or by a STEP that sees an edge; until then PC and every
register stay. -/
def Obligations.WaitPersists : Prop :=
  ∀ (s : State) (op : HostOp) (x : RegIdx), s.status = .awaitingKey x → (∀ c, op ≠ .reset c) → (∀ b, op ≠ .load b) →
    (op = .step → ∀ k, ¬s.keyEdge k) →
    (op.apply s).1.status = .awaitingKey x ∧ (op.apply s).1.pc = s.pc ∧ SameRegs s (op.apply s).1

/-! ## Whole-machine rules: what an instruction may change -/

/-- R20, R21: a general register that is not the destination, nor VF of an instruction R21 lists, is unchanged. -/
def Obligations.RegisterFrame : Prop :=
  ∀ (i : Instr) (s t : State) (r : RegIdx), exec i s = .next t → ¬mayWriteReg s.cfg r i → t.getV r = s.getV r

/-- R22, R23, R102: I and PC change only in the instructions that write them; otherwise PC stays the advanced one. -/
def Obligations.IndexAndPcFrame : Prop :=
  ∀ (i : Instr) (s t : State), exec i s = .next t →
    (¬mayWriteI s.cfg i → t.i = s.i) ∧ (¬mayWritePc i → t.pc = s.pc)

/-- R76: only LD B,Vx and LD [I],Vx change memory, at most the three and the x + 1 bytes from I. -/
def Obligations.MemoryFrame : Prop :=
  ∀ (i : Instr) (s t : State) (a : Nat), exec i s = .next t →
    (∀ x, i = .ldB x → ∀ j < 3, a % 4096 ≠ (s.i.toNat + j) % 4096) →
    (∀ x, i = .storeRegs x → ∀ j < x.val + 1, a % 4096 ≠ (s.i.toNat + j) % 4096) →
    t.memRead a = s.memRead a

/-- R24, R25: only CALL writes a stack entry, the one at SP; only CALL and RET change SP. -/
def Obligations.StackFrame : Prop :=
  ∀ (i : Instr) (s t : State), exec i s = .next t →
    ((∀ nnn, i ≠ .call nnn) → t.stk = s.stk) ∧ ((∀ nnn, i ≠ .call nnn) → i ≠ .ret → t.sp = s.sp) ∧
    (∀ j : Fin 16, j.val ≠ s.sp.val → t.stk[j] = s.stk[j])

/-- R26, R27, R28, R29, R30, R31: DT and ST change only in their own loads, the screen only in CLS and DRW, KEY never,
KEY_PREV only in LD Vx,K. -/
def Obligations.DeviceFrame : Prop :=
  ∀ (i : Instr) (s t : State), exec i s = .next t →
    ((∀ x, i ≠ .ldDTVx x) → t.dt = s.dt) ∧ ((∀ x, i ≠ .ldSTVx x) → t.st = s.st) ∧
    (i ≠ .cls → (∀ x y n, i ≠ .drw x y n) → SameScreen s t) ∧ t.key = s.key ∧
    ((∀ x, i ≠ .ldVxK x) → t.keyPrev = s.keyPrev)

/-- R8, R32, R33: STATUS changes only in LD Vx,K and in the two stack faults, FAULT only in those faults, the
configuration never; only RND draws a random byte. The counter of draws is the model's own (DESIGN CHOICE, log
entry 3). -/
def Obligations.ControlFrame : Prop :=
  ∀ (i : Instr) (s t : State), exec i s = .next t →
    t.cfg = s.cfg ∧
    ((∀ x, i ≠ .ldVxK x) → (∀ nnn, i = .call nnn → s.sp.val < 16) → (i = .ret → 0 < s.sp.val) → t.status = s.status) ∧
    ((∀ nnn, i = .call nnn → s.sp.val < 16) → (i = .ret → 0 < s.sp.val) → t.fault = s.fault) ∧
    ((∀ x kk, i ≠ .rnd x kk) → t.draws = s.draws)

/-- R27, R29: no instruction reads ST or DIRTY: two states that differ in those two alone step alike, and each of the
two is then either written alike or as it was. -/
def Obligations.SoundAndDirtyUnread : Prop :=
  ∀ (s t : State) (b : Byte) (d : Bool), step s = .next t →
    ∃ u, step { s with st := b, dirty := d } = .next u ∧ { u with st := t.st, dirty := t.dirty } = t ∧
      (u.st = t.st ∨ (u.st = b ∧ t.st = s.st)) ∧ (u.dirty = t.dirty ∨ (u.dirty = d ∧ t.dirty = s.dirty))

/-! ## Control transfer -/

/-- R120, R223: RET pops, or raises StackUnderflow at SP = 0; a RET at the target of a CALL restores PC to the
instruction after the call, and SP. -/
def Obligations.RetPops : Prop :=
  decode 0x00EE = .ok .ret ∧
  (∀ (s : State) (h : 0 < s.sp.val), ∃ t, exec .ret s = .next t ∧
    t.sp.val = s.sp.val - 1 ∧ t.pc = s.stk[s.sp.val - 1]'(by have := s.sp.isLt; omega) ∧
    t = { s with sp := t.sp, pc := t.pc }) ∧
  (∀ s : State, s.sp.val = 0 → exec .ret s = .next { s with status := .halted, fault := some .stackUnderflow }) ∧
  (∀ (s t : State) (nnn : Addr), s.sp.val < 16 → exec (.call nnn) s = .next t →
    ∃ u, exec .ret { t with pc := t.pc + 2 } = .next u ∧ u.pc = s.pc ∧ u.sp = s.sp)

/-- R122, R222: CALL pushes the advanced PC and jumps, or raises StackOverflow at SP = 16; sixteen nested calls succeed
and the seventeenth raises it. -/
def Obligations.CallPushes : Prop :=
  (∀ nnn, decode (formatA 0x2 nnn) = .ok (.call nnn)) ∧
  (∀ (s : State) (nnn : Addr), s.sp.val < 16 → ∃ t, exec (.call nnn) s = .next t ∧
    t.sp.val = s.sp.val + 1 ∧ (∀ j : Fin 16, t.stk[j] = if j.val = s.sp.val then s.pc else s.stk[j]) ∧
    t = { s with sp := t.sp, stk := t.stk, pc := nnn }) ∧
  (∀ (s : State) (nnn : Addr), s.sp.val = 16 →
    exec (.call nnn) s = .next { s with status := .halted, fault := some .stackOverflow }) ∧
  (∀ (s : Nat → State) (target : Nat → Addr), (s 0).sp.val = 0 → (s 0).status = .running →
    (∀ k < 17, exec (.call (target k)) (s k) = .next (s (k + 1))) →
    (∀ k ≤ 16, (s k).sp.val = k ∧ (s k).status = .running) ∧
      (s 17).status = .halted ∧ (s 17).fault = some .stackOverflow)

/-- R121: JP loads PC and changes nothing else; a jump to itself leaves the state as it was, event Continued. -/
def Obligations.JpJumps : Prop :=
  (∀ nnn, decode (formatA 0x1 nnn) = .ok (.jp nnn)) ∧
  (∀ (s : State) (nnn : Addr), exec (.jp nnn) s = .next { s with pc := nnn }) ∧
  (∀ s : State, s.status = .running → decode s.fetchWord = .ok (.jp s.pc) →
    step s = .next s ∧ stepReply s s = .event .continued)

/-- R127: JP V0,nnn jumps to V[0] + nnn modulo 4096. -/
def Obligations.JpV0Jumps : Prop :=
  (∀ nnn, decode (formatA 0xB nnn) = .ok (.jpV0 nnn)) ∧
  (∀ (s : State) (nnn : Addr), ∃ t, exec (.jpV0 nnn) s = .next t ∧
    t.pc.toNat = ((s.getV 0).toNat + nnn.toNat) % 4096 ∧ t = { s with pc := t.pc })

/-- R123, R124, R125, R126: the four register skips add 2 to PC modulo 4096 when their condition holds, and change
nothing else. -/
def Obligations.RegisterSkips : Prop :=
  (∀ (x : RegIdx) (kk : Byte), decode (formatXK 0x3 x kk) = .ok (.seImm x kk) ∧
    decode (formatXK 0x4 x kk) = .ok (.sneImm x kk)) ∧
  (∀ (x y : RegIdx) (n : Nibble),
    decode (formatXYN 0x5 x y n) = (if n = 0 then .ok (.seReg x y) else .error (.unknownOpcode (formatXYN 0x5 x y n))) ∧
    decode (formatXYN 0x9 x y n) = (if n = 0 then .ok (.sneReg x y) else .error (.unknownOpcode (formatXYN 0x9 x y n)))) ∧
  (∀ (s : State) (x y : RegIdx) (kk : Byte),
    exec (.seImm x kk) s = .next { s with pc := if s.getV x = kk then s.pc + 2 else s.pc } ∧
    exec (.sneImm x kk) s = .next { s with pc := if s.getV x ≠ kk then s.pc + 2 else s.pc } ∧
    exec (.seReg x y) s = .next { s with pc := if s.getV x = s.getV y then s.pc + 2 else s.pc } ∧
    exec (.sneReg x y) s = .next { s with pc := if s.getV x ≠ s.getV y then s.pc + 2 else s.pc })

/-! ## Register load, arithmetic, logic, shift, random -/

/-- R140, R142: the two register loads write Vx alone. -/
def Obligations.RegisterLoads : Prop :=
  (∀ (x y : RegIdx) (kk : Byte), decode (formatXK 0x6 x kk) = .ok (.ldImm x kk) ∧
    decode (formatXYN 0x8 x y 0x0) = .ok (.ldReg x y)) ∧
  (∀ (s : State) (x : RegIdx) (kk : Byte), ∃ t, exec (.ldImm x kk) s = .next t ∧ SetsReg s t x kk) ∧
  (∀ (s : State) (x y : RegIdx), ∃ t, exec (.ldReg x y) s = .next t ∧ SetsReg s t x (s.getV y))

/-- R143, R144, R145: OR, AND, XOR, bit by bit, write Vx alone; VF is not reset. -/
def Obligations.Logic : Prop :=
  (∀ x y : RegIdx, decode (formatXYN 0x8 x y 0x1) = .ok (.orReg x y) ∧
    decode (formatXYN 0x8 x y 0x2) = .ok (.andReg x y) ∧ decode (formatXYN 0x8 x y 0x3) = .ok (.xorReg x y)) ∧
  (∀ (s : State) (x y : RegIdx),
    (∃ t b, exec (.orReg x y) s = .next t ∧ SetsReg s t x b ∧
      ∀ j, b.getLsbD j = ((s.getV x).getLsbD j || (s.getV y).getLsbD j)) ∧
    (∃ t b, exec (.andReg x y) s = .next t ∧ SetsReg s t x b ∧
      ∀ j, b.getLsbD j = ((s.getV x).getLsbD j && (s.getV y).getLsbD j)) ∧
    (∃ t b, exec (.xorReg x y) s = .next t ∧ SetsReg s t x b ∧
      ∀ j, b.getLsbD j = ((s.getV x).getLsbD j ^^ (s.getV y).getLsbD j)))

/-- R141: ADD Vx,kk wraps modulo 256 and reports no carry. -/
def Obligations.AddImmediate : Prop :=
  (∀ (x : RegIdx) (kk : Byte), decode (formatXK 0x7 x kk) = .ok (.addImm x kk)) ∧
  (∀ (s : State) (x : RegIdx) (kk : Byte), ∃ t b, exec (.addImm x kk) s = .next t ∧ SetsReg s t x b ∧
    b.toNat = ((s.getV x).toNat + kk.toNat) % 256)

/-- R146, R152: ADD Vx,Vy writes the sum modulo 256, then VF the carry, both from the old operands. -/
def Obligations.AddWithCarry : Prop :=
  (∀ x y : RegIdx, decode (formatXYN 0x8 x y 0x4) = .ok (.addReg x y)) ∧
  (∀ (s : State) (x y : RegIdx), ∃ t b, exec (.addReg x y) s = .next t ∧
    b.toNat = ((s.getV x).toNat + (s.getV y).toNat) % 256 ∧
    SetsRegAndFlag s t x b (if (s.getV x).toNat + (s.getV y).toNat > 255 then 1 else 0))

/-- R147, R149, R152: SUB and SUBN write the difference modulo 256, then VF: 1 when no borrow occurred, inverted under
Q_BORROW_INVERT. -/
def Obligations.Subtract : Prop :=
  (∀ x y : RegIdx, decode (formatXYN 0x8 x y 0x5) = .ok (.subReg x y) ∧
    decode (formatXYN 0x8 x y 0x7) = .ok (.subnReg x y)) ∧
  (∀ (s : State) (x y : RegIdx), ∃ t b f, exec (.subReg x y) s = .next t ∧ SetsRegAndFlag s t x b f ∧
    b.toNat = ((s.getV x).toNat + 256 - (s.getV y).toNat) % 256 ∧
    (s.cfg.qBorrowInvert = false → f = if (s.getV x).toNat ≥ (s.getV y).toNat then 1 else 0) ∧
    (s.cfg.qBorrowInvert = true → f = if (s.getV x).toNat ≥ (s.getV y).toNat then 0 else 1)) ∧
  (∀ (s : State) (x y : RegIdx), ∃ t b f, exec (.subnReg x y) s = .next t ∧ SetsRegAndFlag s t x b f ∧
    b.toNat = ((s.getV y).toNat + 256 - (s.getV x).toNat) % 256 ∧
    (s.cfg.qBorrowInvert = false → f = if (s.getV y).toNat ≥ (s.getV x).toNat then 1 else 0) ∧
    (s.cfg.qBorrowInvert = true → f = if (s.getV y).toNat ≥ (s.getV x).toNat then 0 else 1))

/-- R148, R150, R152: SHR and SHL shift Vx by one, filling with 0, then VF is the bit shifted out; V[y] plays no part,
whatever the y field. -/
def Obligations.Shifts : Prop :=
  (∀ x y : RegIdx, decode (formatXYN 0x8 x y 0x6) = .ok (.shr x) ∧ decode (formatXYN 0x8 x y 0xE) = .ok (.shl x)) ∧
  (∀ (s : State) (x : RegIdx), ∃ t b f, exec (.shr x) s = .next t ∧ SetsRegAndFlag s t x b f ∧
    b.toNat = (s.getV x).toNat / 2 ∧ f.toNat = (s.getV x).toNat % 2) ∧
  (∀ (s : State) (x : RegIdx), ∃ t b f, exec (.shl x) s = .next t ∧ SetsRegAndFlag s t x b f ∧
    b.toNat = (s.getV x).toNat * 2 % 256 ∧ f.toNat = (s.getV x).toNat / 128)

/-- R9, R151: RND writes a free byte masked by kk, so no bit outside kk is set, and each RND draws afresh. Nothing is
said of the byte. That it is Config.freeByte at the counter draws, and that RND moves that counter on by 1, is the
model's choice (DESIGN CHOICE, log entry 3) and no rule of the spec. -/
def Obligations.RandomMasked : Prop :=
  (∀ (x : RegIdx) (kk : Byte), decode (formatXK 0xC x kk) = .ok (.rnd x kk)) ∧
  (∀ (s : State) (x : RegIdx) (kk : Byte), ∃ t rnd, exec (.rnd x kk) s = .next t ∧ rnd = Config.freeByte s.draws ∧
    (∀ r, t.getV r = if r = x then rnd &&& kk else s.getV r) ∧ t.getV x &&& ~~~kk = 0 ∧
    t = { s with v := t.v, draws := s.draws + 1 })

/-! ## Index register and memory -/

/-- R160: LD I,nnn writes I alone. -/
def Obligations.LoadIndex : Prop :=
  (∀ nnn, decode (formatA 0xA nnn) = .ok (.ldI nnn)) ∧
  (∀ (s : State) (nnn : Addr), exec (.ldI nnn) s = .next { s with i := nnn })

/-- R161: ADD I,Vx adds modulo 4096; VF is the overflow past the address space under Q_ADDI_VF, untouched otherwise. -/
def Obligations.AddIndex : Prop :=
  (∀ x : RegIdx, decode (formatXK 0xF x 0x1E) = .ok (.addI x)) ∧
  (∀ (s : State) (x : RegIdx), ∃ t, exec (.addI x) s = .next t ∧
    t.i.toNat = (s.i.toNat + (s.getV x).toNat) % 4096 ∧ t = { s with i := t.i, v := t.v } ∧
    (s.cfg.qAddIVF = false → SameRegs s t) ∧
    (s.cfg.qAddIVF = true → ∀ r, t.getV r =
      if r = 15 then (if s.i.toNat + (s.getV x).toNat > 0xFFF then 1 else 0) else s.getV r))

/-- R162: LD F,Vx writes FONT_BASE + 5 * V[x], unmasked, to I and touches nothing else. -/
def Obligations.FontAddress : Prop :=
  (∀ x : RegIdx, decode (formatXK 0xF x 0x29) = .ok (.ldF x)) ∧
  (∀ (s : State) (x : RegIdx), ∃ t, exec (.ldF x) s = .next t ∧
    t.i.toNat = (s.cfg.fontBase.val + 5 * (s.getV x).toNat) % 4096 ∧ t = { s with i := t.i })

/-- R163: LD B,Vx stores the three decimal digits, most significant first, at I, I + 1, I + 2 modulo 4096, and changes
no other byte and no register. -/
def Obligations.StoreDigits : Prop :=
  (∀ x : RegIdx, decode (formatXK 0xF x 0x33) = .ok (.ldB x)) ∧
  (∀ (s : State) (x : RegIdx), ∃ t, exec (.ldB x) s = .next t ∧
    (t.memRead s.i.toNat).toNat = (s.getV x).toNat / 100 ∧
    (t.memRead (s.i.toNat + 1)).toNat = (s.getV x).toNat / 10 % 10 ∧
    (t.memRead (s.i.toNat + 2)).toNat = (s.getV x).toNat % 10 ∧
    (∀ a, (∀ j < 3, a % 4096 ≠ (s.i.toNat + j) % 4096) → t.memRead a = s.memRead a) ∧
    t = { s with mem := t.mem })

/-- R164: LD [I],Vx stores V[0] to V[x] at I to I + x modulo 4096, changes no other byte, and advances I by x + 1 under
Q_MEM_INC_I alone. -/
def Obligations.StoreRegisters : Prop :=
  (∀ x : RegIdx, decode (formatXK 0xF x 0x55) = .ok (.storeRegs x)) ∧
  (∀ (s : State) (x : RegIdx), ∃ t, exec (.storeRegs x) s = .next t ∧
    (∀ r, r ≤ x → t.memRead (s.i.toNat + r.val) = s.getV r) ∧
    (∀ a, (∀ j < x.val + 1, a % 4096 ≠ (s.i.toNat + j) % 4096) → t.memRead a = s.memRead a) ∧
    t.i.toNat = (if s.cfg.qMemIncI = true then (s.i.toNat + x.val + 1) % 4096 else s.i.toNat) ∧
    t = { s with mem := t.mem, i := t.i })

/-- R165: LD Vx,[I] loads V[0] to V[x] from I to I + x modulo 4096, leaves the other registers, and advances I by x + 1
under Q_MEM_INC_I alone; after a register store at the same I it gives every register back. -/
def Obligations.LoadRegisters : Prop :=
  (∀ x : RegIdx, decode (formatXK 0xF x 0x65) = .ok (.loadRegs x)) ∧
  (∀ (s : State) (x : RegIdx), ∃ t, exec (.loadRegs x) s = .next t ∧
    (∀ r, t.getV r = if r ≤ x then s.memRead (s.i.toNat + r.val) else s.getV r) ∧
    t.i.toNat = (if s.cfg.qMemIncI = true then (s.i.toNat + x.val + 1) % 4096 else s.i.toNat) ∧
    t = { s with v := t.v, i := t.i }) ∧
  (∀ (s t : State) (x : RegIdx) (other : Vector Byte 16), exec (.storeRegs x) s = .next t →
    ∃ u, exec (.loadRegs x) { t with i := s.i, v := other } = .next u ∧ ∀ r, r ≤ x → u.getV r = s.getV r)

/-- R64, R74: bytes a register store puts where PC points are the very next word fetched, the lower address high. -/
def Obligations.StoreThenFetch : Prop :=
  ∀ (s t : State) (x : RegIdx), 1 ≤ x → exec (.storeRegs x) s = .next t → s.i = s.pc →
    t.fetchWord = joinBytes (s.getV 0) (s.getV 1)

/-! ## Display -/

/-- R170: CLS blanks every pixel and sets DIRTY; nothing else changes. -/
def Obligations.ClearScreen : Prop :=
  decode 0x00E0 = .ok .cls ∧
  (∀ s : State, ∃ t, exec .cls s = .next t ∧ (∀ x y, t.pixel x y = false) ∧
    t = { s with fb := t.fb, dirty := true })

/-- R171, R172, R173, R175: DRW inverts exactly the pixels the sprite covers (clipped, or wrapped under Q_DRAW_WRAP), VF
is 1 exactly when a covered pixel was lit, DIRTY is set, and nothing else changes; also for n = 0. -/
def Obligations.DrawSprite : Prop :=
  (∀ (x y : RegIdx) (n : Fin 16), decode (formatXYN 0xD x y (BitVec.ofFin n)) = .ok (.drw x y n)) ∧
  (∀ (s : State) (x y : RegIdx) (n : Fin 16), ∃ t, exec (.drw x y n) s = .next t ∧
    (∀ px py, px < 64 → py < 32 →
      (spriteCovers s x y n.val px py → t.pixel px py = !s.pixel px py) ∧
      (¬spriteCovers s x y n.val px py → t.pixel px py = s.pixel px py)) ∧
    ((∃ px py, px < 64 ∧ py < 32 ∧ spriteCovers s x y n.val px py ∧ s.pixel px py = true) → t.getV 15 = 1) ∧
    ((∀ px py, px < 64 → py < 32 → spriteCovers s x y n.val px py → s.pixel px py = false) → t.getV 15 = 0) ∧
    (∀ r, r ≠ 15 → t.getV r = s.getV r) ∧
    t = { s with fb := t.fb, v := t.v, dirty := true })

/-- R174: a second draw of the same sprite at the same origin undoes the first; on a frame that was blank it leaves it
blank, with VF = 1 exactly when the sprite has a bit inside the frame. -/
def Obligations.DrawTwice : Prop :=
  ∀ (s t u : State) (x y : RegIdx) (n : Fin 16), exec (.drw x y n) s = .next t → exec (.drw x y n) t = .next u →
    (t.getV x).toNat % 64 = (s.getV x).toNat % 64 → (t.getV y).toNat % 32 = (s.getV y).toNat % 32 →
    (∀ px py, u.pixel px py = s.pixel px py) ∧
    ((∀ px py, s.pixel px py = false) →
      (u.getV 15 = 1 ↔ ∃ px py, px < 64 ∧ py < 32 ∧ spriteCovers s x y n.val px py))

/-! ## Timers and keys -/

/-- R190, R191, R192: the three timer copies. -/
def Obligations.TimerCopies : Prop :=
  (∀ x : RegIdx, decode (formatXK 0xF x 0x07) = .ok (.ldVxDT x) ∧ decode (formatXK 0xF x 0x15) = .ok (.ldDTVx x) ∧
    decode (formatXK 0xF x 0x18) = .ok (.ldSTVx x)) ∧
  (∀ (s : State) (x : RegIdx),
    (∃ t, exec (.ldVxDT x) s = .next t ∧ SetsReg s t x s.dt) ∧
    exec (.ldDTVx x) s = .next { s with dt := s.getV x } ∧
    exec (.ldSTVx x) s = .next { s with st := s.getV x })

/-- R193, R194, R197: SKP skips when the key of V[x]'s low four bits is down, SKNP when it is up. -/
def Obligations.KeySkips : Prop :=
  (∀ x : RegIdx, decode (formatXK 0xE x 0x9E) = .ok (.skp x) ∧ decode (formatXK 0xE x 0xA1) = .ok (.sknp x)) ∧
  (∀ (s : State) (x k : RegIdx), k.val = (s.getV x).toNat % 16 →
    exec (.skp x) s = .next { s with pc := if s.key.getLsbD k.val = true then s.pc + 2 else s.pc } ∧
    exec (.sknp x) s = .next { s with pc := if s.key.getLsbD k.val = false then s.pc + 2 else s.pc })

/-- R195: LD Vx,K puts PC back on itself, takes the key levels as the baseline, and waits; V[x] is not written. -/
def Obligations.WaitEntry : Prop :=
  (∀ x : RegIdx, decode (formatXK 0xF x 0x0A) = .ok (.ldVxK x)) ∧
  (∀ (s : State) (x : RegIdx) (pc0 : Addr), s.pc = pc0 + 2 →
    exec (.ldVxK x) s = .next { s with pc := pc0, keyPrev := s.key, status := .awaitingKey x }) ∧
  (∀ (s : State) (x : RegIdx), s.status = .running → decode s.fetchWord = .ok (.ldVxK x) →
    ∃ t, step s = .next t ∧ t.pc = s.pc ∧ stepReply s t = .event .awaitingKey)

/-- R266: at a jump to itself every STEP leaves all state unchanged and returns Continued. -/
def Obligations.SelfJump : Prop :=
  ∀ s : State, s.atSelfJump → step s = .next s ∧ stepReply s s = .event .continued
end

