-- ==== Sys2Proof/Laws/Decode.lean ====
section
/-! SUPPORT. Laws/Decode: the words of the formats as numbers, and from that the fields of a word built by each format
(R81, R82) and of a word laid out in bytes. -/

namespace Sys2Proof

variable (op n : Nibble) (x y : RegIdx) (kk : Byte) (nnn : Addr)

theorem toNat_formatA : (formatA op nnn).toNat = op.toNat * 4096 + nnn.toNat := by
  have h : (formatA op nnn).toNat = op.toNat <<< 12 ||| nnn.toNat := BitVec.toNat_append op nnn
  rw [h, ← Nat.shiftLeft_add_eq_or_of_lt nnn.isLt, Nat.shiftLeft_eq]

theorem toNat_formatXK : (formatXK op x kk).toNat = op.toNat * 4096 + x.val * 256 + kk.toNat := by
  have h : (formatXK op x kk).toNat = (op.toNat <<< 4 ||| x.val) <<< 8 ||| kk.toNat := by
    rw [formatXK]
    exact (BitVec.toNat_append _ kk).trans (by rw [BitVec.toNat_append]; rfl)
  rw [h, ← Nat.shiftLeft_add_eq_or_of_lt kk.isLt, ← Nat.shiftLeft_add_eq_or_of_lt (show x.val < 2 ^ 4 from x.isLt)]
  simp only [Nat.shiftLeft_eq]
  omega

theorem toNat_formatXYN :
    (formatXYN op x y n).toNat = op.toNat * 4096 + x.val * 256 + y.val * 16 + n.toNat := by
  have h : (formatXYN op x y n).toNat = ((op.toNat <<< 4 ||| x.val) <<< 4 ||| y.val) <<< 4 ||| n.toNat := by
    rw [formatXYN]
    exact (BitVec.toNat_append _ n).trans (by rw [BitVec.toNat_append, BitVec.toNat_append]; rfl)
  rw [h, ← Nat.shiftLeft_add_eq_or_of_lt n.isLt, ← Nat.shiftLeft_add_eq_or_of_lt (show y.val < 2 ^ 4 from y.isLt),
    ← Nat.shiftLeft_add_eq_or_of_lt (show x.val < 2 ^ 4 from x.isLt)]
  simp only [Nat.shiftLeft_eq]
  omega

variable (w : Word)

theorem toNat_fieldOp : (fieldOp w).toNat = w.toNat / 4096 := by
  have := w.isLt
  simp only [fieldOp, BitVec.extractLsb'_toNat, Nat.shiftRight_eq_div_pow]
  omega

theorem val_fieldX : (fieldX w).val = w.toNat / 256 % 16 := by
  simp [fieldX, Nat.shiftRight_eq_div_pow]

theorem val_fieldY : (fieldY w).val = w.toNat / 16 % 16 := by
  simp [fieldY, Nat.shiftRight_eq_div_pow]

theorem toNat_fieldN : (fieldN w).toNat = w.toNat % 16 := by
  simp [fieldN]

theorem toNat_fieldKK : (fieldKK w).toNat = w.toNat % 256 := by
  simp [fieldKK]

theorem toNat_fieldNNN : (fieldNNN w).toNat = w.toNat % 4096 := by
  simp [fieldNNN]

@[simp] theorem fieldOp_formatA : fieldOp (formatA op nnn) = op :=
  BitVec.eq_of_toNat_eq (by rw [toNat_fieldOp, toNat_formatA]; omega)

@[simp] theorem fieldNNN_formatA : fieldNNN (formatA op nnn) = nnn :=
  BitVec.eq_of_toNat_eq (by rw [toNat_fieldNNN, toNat_formatA]; omega)

@[simp] theorem fieldOp_formatXK : fieldOp (formatXK op x kk) = op :=
  BitVec.eq_of_toNat_eq (by rw [toNat_fieldOp, toNat_formatXK]; omega)

@[simp] theorem fieldX_formatXK : fieldX (formatXK op x kk) = x :=
  Fin.ext (by rw [val_fieldX, toNat_formatXK]; omega)

@[simp] theorem fieldKK_formatXK : fieldKK (formatXK op x kk) = kk :=
  BitVec.eq_of_toNat_eq (by rw [toNat_fieldKK, toNat_formatXK]; omega)

@[simp] theorem fieldOp_formatXYN : fieldOp (formatXYN op x y n) = op :=
  BitVec.eq_of_toNat_eq (by rw [toNat_fieldOp, toNat_formatXYN]; omega)

@[simp] theorem fieldX_formatXYN : fieldX (formatXYN op x y n) = x :=
  Fin.ext (by rw [val_fieldX, toNat_formatXYN]; omega)

@[simp] theorem fieldY_formatXYN : fieldY (formatXYN op x y n) = y :=
  Fin.ext (by rw [val_fieldY, toNat_formatXYN]; omega)

@[simp] theorem fieldN_formatXYN : fieldN (formatXYN op x y n) = n :=
  BitVec.eq_of_toNat_eq (by rw [toNat_fieldN, toNat_formatXYN]; omega)

theorem toNat_joinBytes (a b : Byte) : (joinBytes a b).toNat = a.toNat * 256 + b.toNat := by
  have h : (joinBytes a b).toNat = a.toNat <<< 8 ||| b.toNat := BitVec.toNat_append a b
  rw [h, ← Nat.shiftLeft_add_eq_or_of_lt b.isLt, Nat.shiftLeft_eq]

/-- A word laid out high byte first and read back is the word (R64). -/
@[simp] theorem joinBytes_bytes : joinBytes (highByte w) (lowByte w) = w :=
  BitVec.eq_of_toNat_eq (by
    have := w.isLt
    rw [toNat_joinBytes]
    simp only [highByte, lowByte, BitVec.extractLsb'_toNat, Nat.shiftRight_eq_div_pow]
    omega)

/-- Any word is its four nibbles in format XYN (R81). -/
theorem formatXYN_fields : formatXYN (fieldOp w) (fieldX w) (fieldY w) (fieldN w) = w :=
  BitVec.eq_of_toNat_eq (by
    have := w.isLt
    rw [toNat_formatXYN, toNat_fieldOp, val_fieldX, val_fieldY, toNat_fieldN]
    omega)

/-- Any word is op, x and kk in format XK (R81). -/
theorem formatXK_fields : formatXK (fieldOp w) (fieldX w) (fieldKK w) = w :=
  BitVec.eq_of_toNat_eq (by
    have := w.isLt
    rw [toNat_formatXK, toNat_fieldOp, val_fieldX, toNat_fieldKK]
    omega)

/-- Any word is op and nnn in format A (R81). -/
theorem formatA_fields : formatA (fieldOp w) (fieldNNN w) = w :=
  BitVec.eq_of_toNat_eq (by
    have := w.isLt
    rw [toNat_formatA, toNat_fieldOp, toNat_fieldNNN]
    omega)

/-- A nibble that is none of 0 to 14 is 15. -/
theorem nibble_last (op : Nibble) (h0 : op ≠ 0x0) (h1 : op ≠ 0x1) (h2 : op ≠ 0x2) (h3 : op ≠ 0x3) (h4 : op ≠ 0x4)
    (h5 : op ≠ 0x5) (h6 : op ≠ 0x6) (h7 : op ≠ 0x7) (h8 : op ≠ 0x8) (h9 : op ≠ 0x9) (hA : op ≠ 0xA) (hB : op ≠ 0xB)
    (hC : op ≠ 0xC) (hD : op ≠ 0xD) (hE : op ≠ 0xE) : op = 0xF := by
  bv_omega

theorem decodeZero_ok (w : Word) (i : Instr) (hop : fieldOp w = 0x0) (h : decodeZero w = .ok i) : encode i = w := by
  have hw := formatA_fields w
  unfold decodeZero at h
  split at h <;> simp only [Except.ok.injEq, reduceCtorEq] at h <;> subst h <;> rw [← hw, hop] <;> simp only [*] <;> rfl

/-- A word of family 8 that decodes is the encoder's, but for the y nibble of a shift (R93). -/
theorem decodeAlu_ok (w : Word) (i : Instr) (hop : fieldOp w = 0x8) (h : decodeAlu w = .ok i) :
    encode i = w ∨ ∃ x y, (i = .shr x ∧ w = formatXYN 0x8 x y 0x6) ∨ (i = .shl x ∧ w = formatXYN 0x8 x y 0xE) := by
  have hw := formatXYN_fields w
  rw [hop] at hw
  unfold decodeAlu at h
  split at h <;> simp only [Except.ok.injEq, reduceCtorEq] at h <;> subst h <;> next hn =>
    rw [hn] at hw
    first
      | exact .inl hw
      | exact .inr ⟨fieldX w, fieldY w, .inl ⟨rfl, hw.symm⟩⟩
      | exact .inr ⟨fieldX w, fieldY w, .inr ⟨rfl, hw.symm⟩⟩

theorem decodeKeys_ok (w : Word) (i : Instr) (hop : fieldOp w = 0xE) (h : decodeKeys w = .ok i) : encode i = w := by
  have hw := formatXK_fields w
  rw [hop] at hw
  unfold decodeKeys at h
  split at h <;> simp only [Except.ok.injEq, reduceCtorEq] at h <;> subst h <;> next hn =>
    rw [hn] at hw
    exact hw

theorem decodeMisc_ok (w : Word) (i : Instr) (hop : fieldOp w = 0xF) (h : decodeMisc w = .ok i) : encode i = w := by
  have hw := formatXK_fields w
  rw [hop] at hw
  unfold decodeMisc at h
  split at h <;> simp only [Except.ok.injEq, reduceCtorEq] at h <;> subst h <;> next hn =>
    rw [hn] at hw
    exact hw

theorem requireNZero_ok (w : Word) (i j : Instr) (h : requireNZero w i = .ok j) : j = i ∧ fieldN w = 0 := by
  unfold requireNZero at h
  split at h <;> simp_all

/-- What a word that decodes is (R84): the encoder's word of the instruction, but for the y nibble of a shift (R93). -/
theorem decode_ok (w : Word) (i : Instr) (h : decode w = .ok i) :
    encode i = w ∨ ∃ x y, (i = .shr x ∧ w = formatXYN 0x8 x y 0x6) ∨ (i = .shl x ∧ w = formatXYN 0x8 x y 0xE) := by
  have hA := formatA_fields w
  have hK := formatXK_fields w
  have hN := formatXYN_fields w
  unfold decode at h
  split at h
  case h_1 hop => exact .inl (decodeZero_ok w i hop h)
  case h_9 hop => exact decodeAlu_ok w i hop h
  case h_6 hop =>
    obtain ⟨rfl, hz⟩ := requireNZero_ok w _ i h
    exact .inl (by rw [hop, hz] at hN; exact hN)
  case h_10 hop =>
    obtain ⟨rfl, hz⟩ := requireNZero_ok w _ i h
    exact .inl (by rw [hop, hz] at hN; exact hN)
  case h_15 hop => exact .inl (decodeKeys_ok w i hop h)
  case h_16 h0 h1 h2 h3 h4 h5 h6 h7 h8 h9 hA hB hC hD hE =>
    exact .inl (decodeMisc_ok w i (nibble_last _ h0 h1 h2 h3 h4 h5 h6 h7 h8 h9 hA hB hC hD hE) h)
  all_goals
    next hop =>
      simp only [Except.ok.injEq] at h
      subst h
      rw [hop] at hA hK hN
      first | exact .inl hA | exact .inl hK | exact .inl hN

theorem decodeZero_error (w : Word) (e : DecodeError) (h : decodeZero w = .error e) : e = .unknownOpcode w := by
  unfold decodeZero at h
  split at h <;> simp_all

theorem decodeAlu_error (w : Word) (e : DecodeError) (h : decodeAlu w = .error e) : e = .unknownOpcode w := by
  unfold decodeAlu at h
  split at h <;> simp_all

theorem decodeKeys_error (w : Word) (e : DecodeError) (h : decodeKeys w = .error e) : e = .unknownOpcode w := by
  unfold decodeKeys at h
  split at h <;> simp_all

theorem decodeMisc_error (w : Word) (e : DecodeError) (h : decodeMisc w = .error e) : e = .unknownOpcode w := by
  unfold decodeMisc at h
  split at h <;> simp_all

theorem requireNZero_error (w : Word) (i : Instr) (e : DecodeError) (h : requireNZero w i = .error e) :
    e = .unknownOpcode w := by
  unfold requireNZero at h
  split at h <;> simp_all

/-- The one reason for which a word does not decode names the word (R84, R221). -/
theorem decode_error (w : Word) (e : DecodeError) (h : decode w = .error e) : e = .unknownOpcode w := by
  unfold decode at h
  split at h
  case h_1 => exact decodeZero_error w e h
  case h_6 => exact requireNZero_error w _ e h
  case h_9 => exact decodeAlu_error w e h
  case h_10 => exact requireNZero_error w _ e h
  case h_15 => exact decodeKeys_error w e h
  case h_16 => exact decodeMisc_error w e h
  all_goals exact absurd h (by simp)

end Sys2Proof
end

