-- ==== Sys2Proof/Laws/State.lean ====
section
/-! SUPPORT. Laws/State: what each named update of the state leaves in each field, and what the read operations
return after it. All hold by rfl, so that no later proof unfolds a record update. -/

namespace Sys2Proof.Machine

variable (s : State)

/-! ### setV -/

@[simp] theorem State.setV_mem (x : RegIdx) (b : Byte) : (s.setV x b).mem = s.mem := rfl
@[simp] theorem State.setV_v (x : RegIdx) (b : Byte) : (s.setV x b).v = s.v.set x.val b := rfl
@[simp] theorem State.setV_i (x : RegIdx) (b : Byte) : (s.setV x b).i = s.i := rfl
@[simp] theorem State.setV_pc (x : RegIdx) (b : Byte) : (s.setV x b).pc = s.pc := rfl
@[simp] theorem State.setV_stk (x : RegIdx) (b : Byte) : (s.setV x b).stk = s.stk := rfl
@[simp] theorem State.setV_sp (x : RegIdx) (b : Byte) : (s.setV x b).sp = s.sp := rfl
@[simp] theorem State.setV_dt (x : RegIdx) (b : Byte) : (s.setV x b).dt = s.dt := rfl
@[simp] theorem State.setV_st (x : RegIdx) (b : Byte) : (s.setV x b).st = s.st := rfl
@[simp] theorem State.setV_fb (x : RegIdx) (b : Byte) : (s.setV x b).fb = s.fb := rfl
@[simp] theorem State.setV_dirty (x : RegIdx) (b : Byte) : (s.setV x b).dirty = s.dirty := rfl
@[simp] theorem State.setV_key (x : RegIdx) (b : Byte) : (s.setV x b).key = s.key := rfl
@[simp] theorem State.setV_keyPrev (x : RegIdx) (b : Byte) : (s.setV x b).keyPrev = s.keyPrev := rfl
@[simp] theorem State.setV_status (x : RegIdx) (b : Byte) : (s.setV x b).status = s.status := rfl
@[simp] theorem State.setV_fault (x : RegIdx) (b : Byte) : (s.setV x b).fault = s.fault := rfl
@[simp] theorem State.setV_cfg (x : RegIdx) (b : Byte) : (s.setV x b).cfg = s.cfg := rfl
@[simp] theorem State.setV_draws (x : RegIdx) (b : Byte) : (s.setV x b).draws = s.draws := rfl
@[simp] theorem State.memRead_setV (x : RegIdx) (b : Byte) (k : Nat) : (s.setV x b).memRead k = s.memRead k := rfl
@[simp] theorem State.pixel_setV (x : RegIdx) (b : Byte) (px py : Nat) : (s.setV x b).pixel px py = s.pixel px py := rfl
@[simp] theorem State.keyDown_setV (x : RegIdx) (b : Byte) (k : RegIdx) : (s.setV x b).keyDown k = s.keyDown k := rfl

/-! ### setI -/

@[simp] theorem State.setI_mem (a : Addr) : (s.setI a).mem = s.mem := rfl
@[simp] theorem State.setI_v (a : Addr) : (s.setI a).v = s.v := rfl
@[simp] theorem State.setI_i (a : Addr) : (s.setI a).i = a := rfl
@[simp] theorem State.setI_pc (a : Addr) : (s.setI a).pc = s.pc := rfl
@[simp] theorem State.setI_stk (a : Addr) : (s.setI a).stk = s.stk := rfl
@[simp] theorem State.setI_sp (a : Addr) : (s.setI a).sp = s.sp := rfl
@[simp] theorem State.setI_dt (a : Addr) : (s.setI a).dt = s.dt := rfl
@[simp] theorem State.setI_st (a : Addr) : (s.setI a).st = s.st := rfl
@[simp] theorem State.setI_fb (a : Addr) : (s.setI a).fb = s.fb := rfl
@[simp] theorem State.setI_dirty (a : Addr) : (s.setI a).dirty = s.dirty := rfl
@[simp] theorem State.setI_key (a : Addr) : (s.setI a).key = s.key := rfl
@[simp] theorem State.setI_keyPrev (a : Addr) : (s.setI a).keyPrev = s.keyPrev := rfl
@[simp] theorem State.setI_status (a : Addr) : (s.setI a).status = s.status := rfl
@[simp] theorem State.setI_fault (a : Addr) : (s.setI a).fault = s.fault := rfl
@[simp] theorem State.setI_cfg (a : Addr) : (s.setI a).cfg = s.cfg := rfl
@[simp] theorem State.setI_draws (a : Addr) : (s.setI a).draws = s.draws := rfl
@[simp] theorem State.getV_setI (a : Addr) (r : RegIdx) : (s.setI a).getV r = s.getV r := rfl
@[simp] theorem State.memRead_setI (a : Addr) (k : Nat) : (s.setI a).memRead k = s.memRead k := rfl
@[simp] theorem State.pixel_setI (a : Addr) (px py : Nat) : (s.setI a).pixel px py = s.pixel px py := rfl
@[simp] theorem State.keyDown_setI (a : Addr) (k : RegIdx) : (s.setI a).keyDown k = s.keyDown k := rfl

/-! ### setPc -/

@[simp] theorem State.setPc_mem (a : Addr) : (s.setPc a).mem = s.mem := rfl
@[simp] theorem State.setPc_v (a : Addr) : (s.setPc a).v = s.v := rfl
@[simp] theorem State.setPc_i (a : Addr) : (s.setPc a).i = s.i := rfl
@[simp] theorem State.setPc_pc (a : Addr) : (s.setPc a).pc = a := rfl
@[simp] theorem State.setPc_stk (a : Addr) : (s.setPc a).stk = s.stk := rfl
@[simp] theorem State.setPc_sp (a : Addr) : (s.setPc a).sp = s.sp := rfl
@[simp] theorem State.setPc_dt (a : Addr) : (s.setPc a).dt = s.dt := rfl
@[simp] theorem State.setPc_st (a : Addr) : (s.setPc a).st = s.st := rfl
@[simp] theorem State.setPc_fb (a : Addr) : (s.setPc a).fb = s.fb := rfl
@[simp] theorem State.setPc_dirty (a : Addr) : (s.setPc a).dirty = s.dirty := rfl
@[simp] theorem State.setPc_key (a : Addr) : (s.setPc a).key = s.key := rfl
@[simp] theorem State.setPc_keyPrev (a : Addr) : (s.setPc a).keyPrev = s.keyPrev := rfl
@[simp] theorem State.setPc_status (a : Addr) : (s.setPc a).status = s.status := rfl
@[simp] theorem State.setPc_fault (a : Addr) : (s.setPc a).fault = s.fault := rfl
@[simp] theorem State.setPc_cfg (a : Addr) : (s.setPc a).cfg = s.cfg := rfl
@[simp] theorem State.setPc_draws (a : Addr) : (s.setPc a).draws = s.draws := rfl
@[simp] theorem State.getV_setPc (a : Addr) (r : RegIdx) : (s.setPc a).getV r = s.getV r := rfl
@[simp] theorem State.memRead_setPc (a : Addr) (k : Nat) : (s.setPc a).memRead k = s.memRead k := rfl
@[simp] theorem State.pixel_setPc (a : Addr) (px py : Nat) : (s.setPc a).pixel px py = s.pixel px py := rfl
@[simp] theorem State.keyDown_setPc (a : Addr) (k : RegIdx) : (s.setPc a).keyDown k = s.keyDown k := rfl

/-! ### advance -/

@[simp] theorem State.advance_mem : (s.advance).mem = s.mem := rfl
@[simp] theorem State.advance_v : (s.advance).v = s.v := rfl
@[simp] theorem State.advance_i : (s.advance).i = s.i := rfl
@[simp] theorem State.advance_pc : (s.advance).pc = s.pc + 2 := rfl
@[simp] theorem State.advance_stk : (s.advance).stk = s.stk := rfl
@[simp] theorem State.advance_sp : (s.advance).sp = s.sp := rfl
@[simp] theorem State.advance_dt : (s.advance).dt = s.dt := rfl
@[simp] theorem State.advance_st : (s.advance).st = s.st := rfl
@[simp] theorem State.advance_fb : (s.advance).fb = s.fb := rfl
@[simp] theorem State.advance_dirty : (s.advance).dirty = s.dirty := rfl
@[simp] theorem State.advance_key : (s.advance).key = s.key := rfl
@[simp] theorem State.advance_keyPrev : (s.advance).keyPrev = s.keyPrev := rfl
@[simp] theorem State.advance_status : (s.advance).status = s.status := rfl
@[simp] theorem State.advance_fault : (s.advance).fault = s.fault := rfl
@[simp] theorem State.advance_cfg : (s.advance).cfg = s.cfg := rfl
@[simp] theorem State.advance_draws : (s.advance).draws = s.draws := rfl
@[simp] theorem State.getV_advance (r : RegIdx) : (s.advance).getV r = s.getV r := rfl
@[simp] theorem State.memRead_advance (k : Nat) : (s.advance).memRead k = s.memRead k := rfl
@[simp] theorem State.pixel_advance (px py : Nat) : (s.advance).pixel px py = s.pixel px py := rfl
@[simp] theorem State.keyDown_advance (k : RegIdx) : (s.advance).keyDown k = s.keyDown k := rfl

/-! ### push -/

@[simp] theorem State.push_mem (a : Addr) (h : s.sp.val < stackDepth) : (s.push a h).mem = s.mem := rfl
@[simp] theorem State.push_v (a : Addr) (h : s.sp.val < stackDepth) : (s.push a h).v = s.v := rfl
@[simp] theorem State.push_i (a : Addr) (h : s.sp.val < stackDepth) : (s.push a h).i = s.i := rfl
@[simp] theorem State.push_pc (a : Addr) (h : s.sp.val < stackDepth) : (s.push a h).pc = s.pc := rfl
@[simp] theorem State.push_stk (a : Addr) (h : s.sp.val < stackDepth) : (s.push a h).stk = s.stk.set s.sp.val a h := rfl
@[simp] theorem State.push_sp (a : Addr) (h : s.sp.val < stackDepth) : (s.push a h).sp = ⟨s.sp.val + 1, Nat.succ_lt_succ h⟩ := rfl
@[simp] theorem State.push_dt (a : Addr) (h : s.sp.val < stackDepth) : (s.push a h).dt = s.dt := rfl
@[simp] theorem State.push_st (a : Addr) (h : s.sp.val < stackDepth) : (s.push a h).st = s.st := rfl
@[simp] theorem State.push_fb (a : Addr) (h : s.sp.val < stackDepth) : (s.push a h).fb = s.fb := rfl
@[simp] theorem State.push_dirty (a : Addr) (h : s.sp.val < stackDepth) : (s.push a h).dirty = s.dirty := rfl
@[simp] theorem State.push_key (a : Addr) (h : s.sp.val < stackDepth) : (s.push a h).key = s.key := rfl
@[simp] theorem State.push_keyPrev (a : Addr) (h : s.sp.val < stackDepth) : (s.push a h).keyPrev = s.keyPrev := rfl
@[simp] theorem State.push_status (a : Addr) (h : s.sp.val < stackDepth) : (s.push a h).status = s.status := rfl
@[simp] theorem State.push_fault (a : Addr) (h : s.sp.val < stackDepth) : (s.push a h).fault = s.fault := rfl
@[simp] theorem State.push_cfg (a : Addr) (h : s.sp.val < stackDepth) : (s.push a h).cfg = s.cfg := rfl
@[simp] theorem State.push_draws (a : Addr) (h : s.sp.val < stackDepth) : (s.push a h).draws = s.draws := rfl
@[simp] theorem State.getV_push (a : Addr) (h : s.sp.val < stackDepth) (r : RegIdx) : (s.push a h).getV r = s.getV r := rfl
@[simp] theorem State.memRead_push (a : Addr) (h : s.sp.val < stackDepth) (k : Nat) : (s.push a h).memRead k = s.memRead k := rfl
@[simp] theorem State.pixel_push (a : Addr) (h : s.sp.val < stackDepth) (px py : Nat) : (s.push a h).pixel px py = s.pixel px py := rfl
@[simp] theorem State.keyDown_push (a : Addr) (h : s.sp.val < stackDepth) (k : RegIdx) : (s.push a h).keyDown k = s.keyDown k := rfl

/-! ### popPc -/

@[simp] theorem State.popPc_mem (h : 0 < s.sp.val) : (s.popPc h).mem = s.mem := rfl
@[simp] theorem State.popPc_v (h : 0 < s.sp.val) : (s.popPc h).v = s.v := rfl
@[simp] theorem State.popPc_i (h : 0 < s.sp.val) : (s.popPc h).i = s.i := rfl
@[simp] theorem State.popPc_pc (h : 0 < s.sp.val) : (s.popPc h).pc = s.stk[s.sp.val - 1]'(by have := s.sp.isLt; omega) := rfl
@[simp] theorem State.popPc_stk (h : 0 < s.sp.val) : (s.popPc h).stk = s.stk := rfl
@[simp] theorem State.popPc_sp (h : 0 < s.sp.val) : (s.popPc h).sp = ⟨s.sp.val - 1, by have := s.sp.isLt; omega⟩ := rfl
@[simp] theorem State.popPc_dt (h : 0 < s.sp.val) : (s.popPc h).dt = s.dt := rfl
@[simp] theorem State.popPc_st (h : 0 < s.sp.val) : (s.popPc h).st = s.st := rfl
@[simp] theorem State.popPc_fb (h : 0 < s.sp.val) : (s.popPc h).fb = s.fb := rfl
@[simp] theorem State.popPc_dirty (h : 0 < s.sp.val) : (s.popPc h).dirty = s.dirty := rfl
@[simp] theorem State.popPc_key (h : 0 < s.sp.val) : (s.popPc h).key = s.key := rfl
@[simp] theorem State.popPc_keyPrev (h : 0 < s.sp.val) : (s.popPc h).keyPrev = s.keyPrev := rfl
@[simp] theorem State.popPc_status (h : 0 < s.sp.val) : (s.popPc h).status = s.status := rfl
@[simp] theorem State.popPc_fault (h : 0 < s.sp.val) : (s.popPc h).fault = s.fault := rfl
@[simp] theorem State.popPc_cfg (h : 0 < s.sp.val) : (s.popPc h).cfg = s.cfg := rfl
@[simp] theorem State.popPc_draws (h : 0 < s.sp.val) : (s.popPc h).draws = s.draws := rfl
@[simp] theorem State.getV_popPc (h : 0 < s.sp.val) (r : RegIdx) : (s.popPc h).getV r = s.getV r := rfl
@[simp] theorem State.memRead_popPc (h : 0 < s.sp.val) (k : Nat) : (s.popPc h).memRead k = s.memRead k := rfl
@[simp] theorem State.pixel_popPc (h : 0 < s.sp.val) (px py : Nat) : (s.popPc h).pixel px py = s.pixel px py := rfl
@[simp] theorem State.keyDown_popPc (h : 0 < s.sp.val) (k : RegIdx) : (s.popPc h).keyDown k = s.keyDown k := rfl

/-! ### setDT -/

@[simp] theorem State.setDT_mem (b : Byte) : (s.setDT b).mem = s.mem := rfl
@[simp] theorem State.setDT_v (b : Byte) : (s.setDT b).v = s.v := rfl
@[simp] theorem State.setDT_i (b : Byte) : (s.setDT b).i = s.i := rfl
@[simp] theorem State.setDT_pc (b : Byte) : (s.setDT b).pc = s.pc := rfl
@[simp] theorem State.setDT_stk (b : Byte) : (s.setDT b).stk = s.stk := rfl
@[simp] theorem State.setDT_sp (b : Byte) : (s.setDT b).sp = s.sp := rfl
@[simp] theorem State.setDT_dt (b : Byte) : (s.setDT b).dt = b := rfl
@[simp] theorem State.setDT_st (b : Byte) : (s.setDT b).st = s.st := rfl
@[simp] theorem State.setDT_fb (b : Byte) : (s.setDT b).fb = s.fb := rfl
@[simp] theorem State.setDT_dirty (b : Byte) : (s.setDT b).dirty = s.dirty := rfl
@[simp] theorem State.setDT_key (b : Byte) : (s.setDT b).key = s.key := rfl
@[simp] theorem State.setDT_keyPrev (b : Byte) : (s.setDT b).keyPrev = s.keyPrev := rfl
@[simp] theorem State.setDT_status (b : Byte) : (s.setDT b).status = s.status := rfl
@[simp] theorem State.setDT_fault (b : Byte) : (s.setDT b).fault = s.fault := rfl
@[simp] theorem State.setDT_cfg (b : Byte) : (s.setDT b).cfg = s.cfg := rfl
@[simp] theorem State.setDT_draws (b : Byte) : (s.setDT b).draws = s.draws := rfl
@[simp] theorem State.getV_setDT (b : Byte) (r : RegIdx) : (s.setDT b).getV r = s.getV r := rfl
@[simp] theorem State.memRead_setDT (b : Byte) (k : Nat) : (s.setDT b).memRead k = s.memRead k := rfl
@[simp] theorem State.pixel_setDT (b : Byte) (px py : Nat) : (s.setDT b).pixel px py = s.pixel px py := rfl
@[simp] theorem State.keyDown_setDT (b : Byte) (k : RegIdx) : (s.setDT b).keyDown k = s.keyDown k := rfl

/-! ### setST -/

@[simp] theorem State.setST_mem (b : Byte) : (s.setST b).mem = s.mem := rfl
@[simp] theorem State.setST_v (b : Byte) : (s.setST b).v = s.v := rfl
@[simp] theorem State.setST_i (b : Byte) : (s.setST b).i = s.i := rfl
@[simp] theorem State.setST_pc (b : Byte) : (s.setST b).pc = s.pc := rfl
@[simp] theorem State.setST_stk (b : Byte) : (s.setST b).stk = s.stk := rfl
@[simp] theorem State.setST_sp (b : Byte) : (s.setST b).sp = s.sp := rfl
@[simp] theorem State.setST_dt (b : Byte) : (s.setST b).dt = s.dt := rfl
@[simp] theorem State.setST_st (b : Byte) : (s.setST b).st = b := rfl
@[simp] theorem State.setST_fb (b : Byte) : (s.setST b).fb = s.fb := rfl
@[simp] theorem State.setST_dirty (b : Byte) : (s.setST b).dirty = s.dirty := rfl
@[simp] theorem State.setST_key (b : Byte) : (s.setST b).key = s.key := rfl
@[simp] theorem State.setST_keyPrev (b : Byte) : (s.setST b).keyPrev = s.keyPrev := rfl
@[simp] theorem State.setST_status (b : Byte) : (s.setST b).status = s.status := rfl
@[simp] theorem State.setST_fault (b : Byte) : (s.setST b).fault = s.fault := rfl
@[simp] theorem State.setST_cfg (b : Byte) : (s.setST b).cfg = s.cfg := rfl
@[simp] theorem State.setST_draws (b : Byte) : (s.setST b).draws = s.draws := rfl
@[simp] theorem State.getV_setST (b : Byte) (r : RegIdx) : (s.setST b).getV r = s.getV r := rfl
@[simp] theorem State.memRead_setST (b : Byte) (k : Nat) : (s.setST b).memRead k = s.memRead k := rfl
@[simp] theorem State.pixel_setST (b : Byte) (px py : Nat) : (s.setST b).pixel px py = s.pixel px py := rfl
@[simp] theorem State.keyDown_setST (b : Byte) (k : RegIdx) : (s.setST b).keyDown k = s.keyDown k := rfl

/-! ### setScreen -/

@[simp] theorem State.setScreen_mem (f : FrameBuffer) : (s.setScreen f).mem = s.mem := rfl
@[simp] theorem State.setScreen_v (f : FrameBuffer) : (s.setScreen f).v = s.v := rfl
@[simp] theorem State.setScreen_i (f : FrameBuffer) : (s.setScreen f).i = s.i := rfl
@[simp] theorem State.setScreen_pc (f : FrameBuffer) : (s.setScreen f).pc = s.pc := rfl
@[simp] theorem State.setScreen_stk (f : FrameBuffer) : (s.setScreen f).stk = s.stk := rfl
@[simp] theorem State.setScreen_sp (f : FrameBuffer) : (s.setScreen f).sp = s.sp := rfl
@[simp] theorem State.setScreen_dt (f : FrameBuffer) : (s.setScreen f).dt = s.dt := rfl
@[simp] theorem State.setScreen_st (f : FrameBuffer) : (s.setScreen f).st = s.st := rfl
@[simp] theorem State.setScreen_fb (f : FrameBuffer) : (s.setScreen f).fb = f := rfl
@[simp] theorem State.setScreen_dirty (f : FrameBuffer) : (s.setScreen f).dirty = true := rfl
@[simp] theorem State.setScreen_key (f : FrameBuffer) : (s.setScreen f).key = s.key := rfl
@[simp] theorem State.setScreen_keyPrev (f : FrameBuffer) : (s.setScreen f).keyPrev = s.keyPrev := rfl
@[simp] theorem State.setScreen_status (f : FrameBuffer) : (s.setScreen f).status = s.status := rfl
@[simp] theorem State.setScreen_fault (f : FrameBuffer) : (s.setScreen f).fault = s.fault := rfl
@[simp] theorem State.setScreen_cfg (f : FrameBuffer) : (s.setScreen f).cfg = s.cfg := rfl
@[simp] theorem State.setScreen_draws (f : FrameBuffer) : (s.setScreen f).draws = s.draws := rfl
@[simp] theorem State.getV_setScreen (f : FrameBuffer) (r : RegIdx) : (s.setScreen f).getV r = s.getV r := rfl
@[simp] theorem State.memRead_setScreen (f : FrameBuffer) (k : Nat) : (s.setScreen f).memRead k = s.memRead k := rfl
@[simp] theorem State.keyDown_setScreen (f : FrameBuffer) (k : RegIdx) : (s.setScreen f).keyDown k = s.keyDown k := rfl

/-! ### sampleKeys -/

@[simp] theorem State.sampleKeys_mem : (s.sampleKeys).mem = s.mem := rfl
@[simp] theorem State.sampleKeys_v : (s.sampleKeys).v = s.v := rfl
@[simp] theorem State.sampleKeys_i : (s.sampleKeys).i = s.i := rfl
@[simp] theorem State.sampleKeys_pc : (s.sampleKeys).pc = s.pc := rfl
@[simp] theorem State.sampleKeys_stk : (s.sampleKeys).stk = s.stk := rfl
@[simp] theorem State.sampleKeys_sp : (s.sampleKeys).sp = s.sp := rfl
@[simp] theorem State.sampleKeys_dt : (s.sampleKeys).dt = s.dt := rfl
@[simp] theorem State.sampleKeys_st : (s.sampleKeys).st = s.st := rfl
@[simp] theorem State.sampleKeys_fb : (s.sampleKeys).fb = s.fb := rfl
@[simp] theorem State.sampleKeys_dirty : (s.sampleKeys).dirty = s.dirty := rfl
@[simp] theorem State.sampleKeys_key : (s.sampleKeys).key = s.key := rfl
@[simp] theorem State.sampleKeys_keyPrev : (s.sampleKeys).keyPrev = s.key := rfl
@[simp] theorem State.sampleKeys_status : (s.sampleKeys).status = s.status := rfl
@[simp] theorem State.sampleKeys_fault : (s.sampleKeys).fault = s.fault := rfl
@[simp] theorem State.sampleKeys_cfg : (s.sampleKeys).cfg = s.cfg := rfl
@[simp] theorem State.sampleKeys_draws : (s.sampleKeys).draws = s.draws := rfl
@[simp] theorem State.getV_sampleKeys (r : RegIdx) : (s.sampleKeys).getV r = s.getV r := rfl
@[simp] theorem State.memRead_sampleKeys (k : Nat) : (s.sampleKeys).memRead k = s.memRead k := rfl
@[simp] theorem State.pixel_sampleKeys (px py : Nat) : (s.sampleKeys).pixel px py = s.pixel px py := rfl
@[simp] theorem State.keyDown_sampleKeys (k : RegIdx) : (s.sampleKeys).keyDown k = s.keyDown k := rfl

/-! ### setStatus -/

@[simp] theorem State.setStatus_mem (u : Status) : (s.setStatus u).mem = s.mem := rfl
@[simp] theorem State.setStatus_v (u : Status) : (s.setStatus u).v = s.v := rfl
@[simp] theorem State.setStatus_i (u : Status) : (s.setStatus u).i = s.i := rfl
@[simp] theorem State.setStatus_pc (u : Status) : (s.setStatus u).pc = s.pc := rfl
@[simp] theorem State.setStatus_stk (u : Status) : (s.setStatus u).stk = s.stk := rfl
@[simp] theorem State.setStatus_sp (u : Status) : (s.setStatus u).sp = s.sp := rfl
@[simp] theorem State.setStatus_dt (u : Status) : (s.setStatus u).dt = s.dt := rfl
@[simp] theorem State.setStatus_st (u : Status) : (s.setStatus u).st = s.st := rfl
@[simp] theorem State.setStatus_fb (u : Status) : (s.setStatus u).fb = s.fb := rfl
@[simp] theorem State.setStatus_dirty (u : Status) : (s.setStatus u).dirty = s.dirty := rfl
@[simp] theorem State.setStatus_key (u : Status) : (s.setStatus u).key = s.key := rfl
@[simp] theorem State.setStatus_keyPrev (u : Status) : (s.setStatus u).keyPrev = s.keyPrev := rfl
@[simp] theorem State.setStatus_status (u : Status) : (s.setStatus u).status = u := rfl
@[simp] theorem State.setStatus_fault (u : Status) : (s.setStatus u).fault = s.fault := rfl
@[simp] theorem State.setStatus_cfg (u : Status) : (s.setStatus u).cfg = s.cfg := rfl
@[simp] theorem State.setStatus_draws (u : Status) : (s.setStatus u).draws = s.draws := rfl
@[simp] theorem State.getV_setStatus (u : Status) (r : RegIdx) : (s.setStatus u).getV r = s.getV r := rfl
@[simp] theorem State.memRead_setStatus (u : Status) (k : Nat) : (s.setStatus u).memRead k = s.memRead k := rfl
@[simp] theorem State.pixel_setStatus (u : Status) (px py : Nat) : (s.setStatus u).pixel px py = s.pixel px py := rfl
@[simp] theorem State.keyDown_setStatus (u : Status) (k : RegIdx) : (s.setStatus u).keyDown k = s.keyDown k := rfl

/-! ### countDraw -/

@[simp] theorem State.countDraw_mem : (s.countDraw).mem = s.mem := rfl
@[simp] theorem State.countDraw_v : (s.countDraw).v = s.v := rfl
@[simp] theorem State.countDraw_i : (s.countDraw).i = s.i := rfl
@[simp] theorem State.countDraw_pc : (s.countDraw).pc = s.pc := rfl
@[simp] theorem State.countDraw_stk : (s.countDraw).stk = s.stk := rfl
@[simp] theorem State.countDraw_sp : (s.countDraw).sp = s.sp := rfl
@[simp] theorem State.countDraw_dt : (s.countDraw).dt = s.dt := rfl
@[simp] theorem State.countDraw_st : (s.countDraw).st = s.st := rfl
@[simp] theorem State.countDraw_fb : (s.countDraw).fb = s.fb := rfl
@[simp] theorem State.countDraw_dirty : (s.countDraw).dirty = s.dirty := rfl
@[simp] theorem State.countDraw_key : (s.countDraw).key = s.key := rfl
@[simp] theorem State.countDraw_keyPrev : (s.countDraw).keyPrev = s.keyPrev := rfl
@[simp] theorem State.countDraw_status : (s.countDraw).status = s.status := rfl
@[simp] theorem State.countDraw_fault : (s.countDraw).fault = s.fault := rfl
@[simp] theorem State.countDraw_cfg : (s.countDraw).cfg = s.cfg := rfl
@[simp] theorem State.countDraw_draws : (s.countDraw).draws = s.draws + 1 := rfl
@[simp] theorem State.getV_countDraw (r : RegIdx) : (s.countDraw).getV r = s.getV r := rfl
@[simp] theorem State.memRead_countDraw (k : Nat) : (s.countDraw).memRead k = s.memRead k := rfl
@[simp] theorem State.pixel_countDraw (px py : Nat) : (s.countDraw).pixel px py = s.pixel px py := rfl
@[simp] theorem State.keyDown_countDraw (k : RegIdx) : (s.countDraw).keyDown k = s.keyDown k := rfl

/-! ### faulted -/

@[simp] theorem State.faulted_mem (f : FaultRecord) : (s.faulted f).mem = s.mem := rfl
@[simp] theorem State.faulted_v (f : FaultRecord) : (s.faulted f).v = s.v := rfl
@[simp] theorem State.faulted_i (f : FaultRecord) : (s.faulted f).i = s.i := rfl
@[simp] theorem State.faulted_pc (f : FaultRecord) : (s.faulted f).pc = s.pc := rfl
@[simp] theorem State.faulted_stk (f : FaultRecord) : (s.faulted f).stk = s.stk := rfl
@[simp] theorem State.faulted_sp (f : FaultRecord) : (s.faulted f).sp = s.sp := rfl
@[simp] theorem State.faulted_dt (f : FaultRecord) : (s.faulted f).dt = s.dt := rfl
@[simp] theorem State.faulted_st (f : FaultRecord) : (s.faulted f).st = s.st := rfl
@[simp] theorem State.faulted_fb (f : FaultRecord) : (s.faulted f).fb = s.fb := rfl
@[simp] theorem State.faulted_dirty (f : FaultRecord) : (s.faulted f).dirty = s.dirty := rfl
@[simp] theorem State.faulted_key (f : FaultRecord) : (s.faulted f).key = s.key := rfl
@[simp] theorem State.faulted_keyPrev (f : FaultRecord) : (s.faulted f).keyPrev = s.keyPrev := rfl
@[simp] theorem State.faulted_status (f : FaultRecord) : (s.faulted f).status = .halted := rfl
@[simp] theorem State.faulted_fault (f : FaultRecord) : (s.faulted f).fault = some f := rfl
@[simp] theorem State.faulted_cfg (f : FaultRecord) : (s.faulted f).cfg = s.cfg := rfl
@[simp] theorem State.faulted_draws (f : FaultRecord) : (s.faulted f).draws = s.draws := rfl
@[simp] theorem State.getV_faulted (f : FaultRecord) (r : RegIdx) : (s.faulted f).getV r = s.getV r := rfl
@[simp] theorem State.memRead_faulted (f : FaultRecord) (k : Nat) : (s.faulted f).memRead k = s.memRead k := rfl
@[simp] theorem State.pixel_faulted (f : FaultRecord) (px py : Nat) : (s.faulted f).pixel px py = s.pixel px py := rfl
@[simp] theorem State.keyDown_faulted (f : FaultRecord) (k : RegIdx) : (s.faulted f).keyDown k = s.keyDown k := rfl

/-! ### memWrite -/

@[simp] theorem State.memWrite_mem (a : Nat) (b : Byte) : (s.memWrite a b).mem = Memory.write s.cfg (a % memSize) b s.mem := rfl
@[simp] theorem State.memWrite_v (a : Nat) (b : Byte) : (s.memWrite a b).v = s.v := rfl
@[simp] theorem State.memWrite_i (a : Nat) (b : Byte) : (s.memWrite a b).i = s.i := rfl
@[simp] theorem State.memWrite_pc (a : Nat) (b : Byte) : (s.memWrite a b).pc = s.pc := rfl
@[simp] theorem State.memWrite_stk (a : Nat) (b : Byte) : (s.memWrite a b).stk = s.stk := rfl
@[simp] theorem State.memWrite_sp (a : Nat) (b : Byte) : (s.memWrite a b).sp = s.sp := rfl
@[simp] theorem State.memWrite_dt (a : Nat) (b : Byte) : (s.memWrite a b).dt = s.dt := rfl
@[simp] theorem State.memWrite_st (a : Nat) (b : Byte) : (s.memWrite a b).st = s.st := rfl
@[simp] theorem State.memWrite_fb (a : Nat) (b : Byte) : (s.memWrite a b).fb = s.fb := rfl
@[simp] theorem State.memWrite_dirty (a : Nat) (b : Byte) : (s.memWrite a b).dirty = s.dirty := rfl
@[simp] theorem State.memWrite_key (a : Nat) (b : Byte) : (s.memWrite a b).key = s.key := rfl
@[simp] theorem State.memWrite_keyPrev (a : Nat) (b : Byte) : (s.memWrite a b).keyPrev = s.keyPrev := rfl
@[simp] theorem State.memWrite_status (a : Nat) (b : Byte) : (s.memWrite a b).status = s.status := rfl
@[simp] theorem State.memWrite_fault (a : Nat) (b : Byte) : (s.memWrite a b).fault = s.fault := rfl
@[simp] theorem State.memWrite_cfg (a : Nat) (b : Byte) : (s.memWrite a b).cfg = s.cfg := rfl
@[simp] theorem State.memWrite_draws (a : Nat) (b : Byte) : (s.memWrite a b).draws = s.draws := rfl
@[simp] theorem State.getV_memWrite (a : Nat) (b : Byte) (r : RegIdx) : (s.memWrite a b).getV r = s.getV r := rfl
@[simp] theorem State.pixel_memWrite (a : Nat) (b : Byte) (px py : Nat) : (s.memWrite a b).pixel px py = s.pixel px py := rfl
@[simp] theorem State.keyDown_memWrite (a : Nat) (b : Byte) (k : RegIdx) : (s.memWrite a b).keyDown k = s.keyDown k := rfl

@[simp] theorem State.pixel_setScreen (f : FrameBuffer) (px py : Nat) :
    (s.setScreen f).pixel px py = pixelGet f px py := rfl

end Sys2Proof.Machine
end

