-- ==== Sys2Proof/Laws/Display.lean ====
section
/-! SUPPORT. Laws/Display: what one plotted pixel does to every pixel and to the collision so far, from which the
rows and the sprite follow by induction on their counts. -/

namespace Sys2Proof.Machine

variable (fb : FrameBuffer)

/-- A flip inside the frame inverts that pixel and no other. -/
theorem pixelGet_pixelFlip (x y a b : Nat) (hx : x < 64) (hy : y < 32) :
    pixelGet (pixelFlip fb x y) a b = (pixelGet fb a b ^^ decide (a = x ∧ b = y)) := by
  unfold pixelFlip pixelGet
  rw [dif_pos hy]
  by_cases hb : b < 32
  · rw [dif_pos hb, dif_pos hb, Vector.getElem_set]
    by_cases h : y = b
    · subst h
      by_cases ha : a = x <;> simp_all [BitVec.getLsbD_xor, BitVec.getLsbD_twoPow, eq_comm]
    · simp [h, eq_comm]
  · rw [dif_neg hb, dif_neg hb]
    simp
    omega

/-- No pixel lies outside the frame. -/
theorem pixelGet_outside (x y : Nat) (h : 64 ≤ x ∨ 32 ≤ y) : pixelGet fb x y = false := by
  unfold pixelGet
  split
  · exact BitVec.getLsbD_of_ge _ _ (by omega)
  · rfl

@[simp] theorem pixelGet_blankFrame (x y : Nat) : pixelGet blankFrame x y = false := by
  simp [pixelGet, blankFrame]

/-- Frames with equal pixels are equal. -/
theorem frame_ext (f g : FrameBuffer) (h : ∀ x y, x < 64 → y < 32 → pixelGet f x y = pixelGet g x y) : f = g := by
  ext y hy x hx
  simpa [pixelGet, hy, BitVec.getLsbD_eq_getElem hx] using h x y hx hy

/-- Everything one plotted sprite bit does (R171, R173, R174): its pixel, if it is inside the frame, is inverted, and
a pixel that was lit is a collision. -/
theorem plotPixel_spec (wrap : Bool) (px py : Nat) (d : Drawing) (a b : Nat) (ha : a < fbWidth) (hb : b < fbHeight) :
    pixelGet (plotPixel wrap px py d).fb a b =
        (pixelGet d.fb a b ^^ decide (a = plotCoord wrap fbWidth px ∧ b = plotCoord wrap fbHeight py)) ∧
      (plotPixel wrap px py d).hit =
        (d.hit || pixelGet d.fb (plotCoord wrap fbWidth px) (plotCoord wrap fbHeight py)) := by
  unfold plotPixel
  by_cases h : plotCoord wrap fbWidth px < fbWidth ∧ plotCoord wrap fbHeight py < fbHeight
  · rw [if_pos h]
    exact ⟨pixelGet_pixelFlip _ _ _ _ _ h.1 h.2, rfl⟩
  · rw [if_neg h]
    refine ⟨?_, ?_⟩
    · have : ¬(a = plotCoord wrap fbWidth px ∧ b = plotCoord wrap fbHeight py) := by
        rintro ⟨rfl, rfl⟩
        exact h ⟨ha, hb⟩
      simp [this]
    · have out : 64 ≤ plotCoord wrap fbWidth px ∨ 32 ≤ plotCoord wrap fbHeight py := by
        rw [← not_lt, ← not_lt, ← not_and_or]
        exact h
      rw [pixelGet_outside _ _ _ out, Bool.or_false]

/-- Two offsets of less than the frame's size from one origin are plotted at different places (R173). -/
theorem plotCoord_inj (wrap : Bool) (size o j k : Nat) (ho : o < size) (hj : j < size) (hk : k < size)
    (h : plotCoord wrap size (o + j) = plotCoord wrap size (o + k)) : j = k := by
  unfold plotCoord at h
  cases wrap
  · simpa using h
  · simp only [if_true] at h
    have hm : ∀ i < size, (o + i) % size = if o + i < size then o + i else o + i - size := by
      intro i hi
      split
      · next hl => exact Nat.mod_eq_of_lt hl
      · next hl => rw [Nat.mod_eq_sub_mod (by omega), Nat.mod_eq_of_lt (by omega)]
    rw [hm j hj, hm k hk] at h
    split at h <;> split at h <;> omega

/-- Everything a plotted sprite row does (R171 to R174): each pixel some set bit of the row falls on is inverted, and
no other; a set bit on a pixel lit before the row is a collision. -/
theorem plotRow_spec (wrap : Bool) (row : Byte) (ox y k : Nat) (d : Drawing) (hox : ox < fbWidth) (hk : k ≤ 8) :
    (∀ a b, a < fbWidth → b < fbHeight →
      ((∃ c < k, row.getLsbD (7 - c) = true ∧ a = plotCoord wrap fbWidth (ox + c) ∧ b = plotCoord wrap fbHeight y) →
        pixelGet (plotRow wrap row ox y k d).fb a b = !pixelGet d.fb a b) ∧
      (¬(∃ c < k, row.getLsbD (7 - c) = true ∧ a = plotCoord wrap fbWidth (ox + c) ∧ b = plotCoord wrap fbHeight y) →
        pixelGet (plotRow wrap row ox y k d).fb a b = pixelGet d.fb a b)) ∧
    ((plotRow wrap row ox y k d).hit = true ↔ d.hit = true ∨ ∃ c < k, row.getLsbD (7 - c) = true ∧
      pixelGet d.fb (plotCoord wrap fbWidth (ox + c)) (plotCoord wrap fbHeight y) = true) := by
  induction k with
  | zero => simp [plotRow]
  | succ k ih =>
    obtain ⟨ihp, ihh⟩ := ih (by omega)
    have hstep : ∀ P : Nat → Prop, (∃ c < k + 1, P c) ↔ (∃ c < k, P c) ∨ P k := fun P => Nat.exists_lt_succ_right
    rw [plotRow]
    by_cases hbit : row.getLsbD (7 - k) = true
    · simp only [hbit, if_true]
      have fresh : ∀ b, ¬∃ c < k, row.getLsbD (7 - c) = true ∧
          plotCoord wrap fbWidth (ox + k) = plotCoord wrap fbWidth (ox + c) ∧ b = plotCoord wrap fbHeight y := by
        rintro b ⟨c, hc, _, h, _⟩
        have := plotCoord_inj wrap fbWidth ox k c hox (show k < 64 by omega) (show c < 64 by omega) h
        omega
      refine ⟨fun a b ha hb => ?_, ?_⟩
      · rw [(plotPixel_spec wrap (ox + k) y _ a b ha hb).1, hstep]
        by_cases here : a = plotCoord wrap fbWidth (ox + k) ∧ b = plotCoord wrap fbHeight y
        · have old := (ihp a b ha hb).2 (by rw [here.1]; exact fresh b)
          rw [old, decide_eq_true here, Bool.xor_true]
          exact ⟨fun _ => rfl, fun h => absurd (.inr ⟨hbit, here⟩) h⟩
        · rw [decide_eq_false here, Bool.xor_false]
          exact ⟨fun h => (ihp a b ha hb).1 (h.resolve_right fun e => here e.2),
            fun h => (ihp a b ha hb).2 fun e => h (.inl e)⟩
      · have old : pixelGet (plotRow wrap row ox y k d).fb (plotCoord wrap fbWidth (ox + k)) (plotCoord wrap fbHeight y)
            = pixelGet d.fb (plotCoord wrap fbWidth (ox + k)) (plotCoord wrap fbHeight y) := by
          by_cases inside : plotCoord wrap fbWidth (ox + k) < fbWidth ∧ plotCoord wrap fbHeight y < fbHeight
          · exact (ihp _ _ inside.1 inside.2).2 (fresh _)
          · have out : 64 ≤ plotCoord wrap fbWidth (ox + k) ∨ 32 ≤ plotCoord wrap fbHeight y := by
              rw [← not_lt, ← not_lt, ← not_and_or]
              exact inside
            rw [pixelGet_outside _ _ _ out, pixelGet_outside _ _ _ out]
        have hit : (plotPixel wrap (ox + k) y (plotRow wrap row ox y k d)).hit =
            ((plotRow wrap row ox y k d).hit ||
              pixelGet (plotRow wrap row ox y k d).fb (plotCoord wrap fbWidth (ox + k)) (plotCoord wrap fbHeight y)) :=
          (plotPixel_spec wrap (ox + k) y _ 0 0 (by decide) (by decide)).2
        rw [hit, old, hstep, Bool.or_eq_true, ihh, or_assoc]
        simp [hbit]
    · have same : ∀ P : Nat → Prop, (∃ c < k + 1, row.getLsbD (7 - c) = true ∧ P c) ↔
          ∃ c < k, row.getLsbD (7 - c) = true ∧ P c := by
        intro P
        rw [hstep]
        exact or_iff_left fun e => hbit e.1
      simp only [hbit, same]
      exact ⟨ihp, ihh⟩

/-- Everything a plotted sprite does (R171 to R174), for at most 16 rows: each pixel the sprite covers is inverted, and
no other; a set bit on a pixel lit before the draw is a collision. -/
theorem plotSprite_spec (wrap : Bool) (row : Nat → Byte) (ox oy n : Nat) (d : Drawing) (hox : ox < fbWidth)
    (hoy : oy < fbHeight) (hn : n ≤ 16) :
    (∀ a b, a < fbWidth → b < fbHeight →
      ((∃ r < n, ∃ c < 8, (row r).getLsbD (7 - c) = true ∧ a = plotCoord wrap fbWidth (ox + c) ∧
          b = plotCoord wrap fbHeight (oy + r)) →
        pixelGet (plotSprite wrap row ox oy n d).fb a b = !pixelGet d.fb a b) ∧
      (¬(∃ r < n, ∃ c < 8, (row r).getLsbD (7 - c) = true ∧ a = plotCoord wrap fbWidth (ox + c) ∧
          b = plotCoord wrap fbHeight (oy + r)) →
        pixelGet (plotSprite wrap row ox oy n d).fb a b = pixelGet d.fb a b)) ∧
    ((plotSprite wrap row ox oy n d).hit = true ↔ d.hit = true ∨ ∃ r < n, ∃ c < 8, (row r).getLsbD (7 - c) = true ∧
      pixelGet d.fb (plotCoord wrap fbWidth (ox + c)) (plotCoord wrap fbHeight (oy + r)) = true) := by
  induction n with
  | zero => simp [plotSprite]
  | succ n ih =>
    obtain ⟨ihp, ihh⟩ := ih (by omega)
    obtain ⟨rowp, rowh⟩ :=
      plotRow_spec wrap (row n) ox (oy + n) 8 (plotSprite wrap row ox oy n d) hox (by omega)
    have hstep : ∀ P : Nat → Prop, (∃ r < n + 1, P r) ↔ (∃ r < n, P r) ∨ P n := fun P => Nat.exists_lt_succ_right
    have fresh : ∀ a, ¬∃ r < n, ∃ c < 8, (row r).getLsbD (7 - c) = true ∧ a = plotCoord wrap fbWidth (ox + c) ∧
        plotCoord wrap fbHeight (oy + n) = plotCoord wrap fbHeight (oy + r) := by
      rintro a ⟨r, hr, c, _, _, _, h⟩
      have := plotCoord_inj wrap fbHeight oy n r hoy (show n < 32 by omega) (show r < 32 by omega) h
      omega
    rw [plotSprite]
    refine ⟨fun a b ha hb => ?_, ?_⟩
    · rw [hstep]
      by_cases here : ∃ c < 8, (row n).getLsbD (7 - c) = true ∧ a = plotCoord wrap fbWidth (ox + c) ∧
          b = plotCoord wrap fbHeight (oy + n)
      · have hb' : b = plotCoord wrap fbHeight (oy + n) := by
          obtain ⟨c, _, _, _, h⟩ := here
          exact h
        rw [(rowp a b ha hb).1 here, (ihp a b ha hb).2 (by rw [hb']; exact fresh a)]
        exact ⟨fun _ => rfl, fun h => absurd (.inr here) h⟩
      · rw [(rowp a b ha hb).2 here]
        exact ⟨fun h => (ihp a b ha hb).1 (h.resolve_right here), fun h => (ihp a b ha hb).2 fun e => h (.inl e)⟩
    · rw [rowh, ihh, hstep, or_assoc]
      have old : ∀ a, pixelGet (plotSprite wrap row ox oy n d).fb a (plotCoord wrap fbHeight (oy + n)) =
          pixelGet d.fb a (plotCoord wrap fbHeight (oy + n)) := by
        intro a
        by_cases inside : a < fbWidth ∧ plotCoord wrap fbHeight (oy + n) < fbHeight
        · exact (ihp _ _ inside.1 inside.2).2 (fresh a)
        · have out : 64 ≤ a ∨ 32 ≤ plotCoord wrap fbHeight (oy + n) := by
            rw [← not_lt, ← not_lt, ← not_and_or]
            exact inside
          rw [pixelGet_outside _ _ _ out, pixelGet_outside _ _ _ out]
      simp only [old]

end Sys2Proof.Machine
end

