-- ==== Sys2Proof/Laws/Keys.lean ====
section
/-! SUPPORT. Laws/Keys: the least key of a set, one key level set, the tick of a timer, and STEP by STATUS. -/

namespace Sys2Proof.Machine

/-- No least key exactly when the set is empty (R196). -/
theorem leastKey_none (keys : BitVec 16) : leastKey keys = none ↔ ∀ k : RegIdx, keys.getLsbD k.val = false := by
  simp [leastKey, List.find?_eq_none]

/-- The least key is a member, and no smaller key is one (R196). -/
theorem leastKey_some (keys : BitVec 16) (k : RegIdx) :
    leastKey keys = some k ↔ keys.getLsbD k.val = true ∧ ∀ j : RegIdx, j < k → keys.getLsbD j.val = false := by
  simp only [leastKey, List.find?_eq_some_iff_getElem, List.length_finRange, List.getElem_finRange, Fin.cast_mk,
    Bool.not_eq_true']
  refine and_congr_right fun _ => ⟨?_, fun h => ⟨k.val, k.isLt, rfl, fun j hj => h ⟨j, by omega⟩ hj⟩⟩
  rintro ⟨i, hi, rfl, h⟩ j hj
  exact h j.val hj

/-- SET_KEY changes one level (R41). -/
theorem getLsbD_withKey (keys : BitVec 16) (k j : RegIdx) (pressed : Bool) :
    (withKey keys k pressed).getLsbD j.val = if j = k then pressed else keys.getLsbD j.val := by
  have hj := j.isLt
  unfold withKey
  cases pressed <;> by_cases h : j = k <;>
    simp_all [Fin.ext_iff, eq_comm]

/-- One tick takes a timer down by one, with floor 0 (R233). -/
theorem toNat_tickByte (b : Byte) : (tickByte b).toNat = b.toNat - 1 := by
  unfold tickByte
  split
  · next h => simp [h]
  · next h =>
    have : b.toNat ≠ 0 := fun e => h (BitVec.eq_of_toNat_eq e)
    rw [BitVec.toNat_sub_of_le (by simpa [BitVec.le_def] using by omega)]
    rfl

variable (s : State)

theorem step_running (h : s.status = .running) : step s = runInstruction s := by
  simp [step, stepByStatus, h]

theorem step_waiting (x : RegIdx) (h : s.status = .awaitingKey x) : step s = pollKeys x s := by
  simp [step, stepByStatus, h]

end Sys2Proof.Machine
end

