-- ==== Sys2Proof/Laws/Memory.lean ====
section
/-! SUPPORT. Laws/Memory: a read after a write, that every memory operation keeps the canonical form, and what the
list writes change and leave alone. -/

namespace Sys2Proof.Machine

variable (c : Config)

theorem Memory.read_erase (a k : Nat) (m : Memory) :
    Memory.read c k (Memory.erase a m) = if k = a then resetByte c k else Memory.read c k m := by
  induction m with
  | nil => simp [Memory.erase, Memory.read]
  | cons cell m ih =>
    by_cases hc : cell.1 = a
    · rw [Memory.erase, if_pos hc, ih]
      by_cases hk : k = a
      · simp [hk]
      · rw [if_neg hk, if_neg hk, Memory.read, if_neg (by omega)]
    · rw [Memory.erase, if_neg hc, Memory.read, ih, Memory.read]
      by_cases hk : k = a
      · subst hk
        simp [hc]
      · simp [hk]

theorem Memory.read_insert (a k : Nat) (b : Byte) (m : Memory) (absent : ∀ p ∈ m, p.1 ≠ a) :
    Memory.read c k (Memory.insert a b m) = if k = a then b else Memory.read c k m := by
  induction m with
  | nil => simp [Memory.insert, Memory.read, eq_comm]
  | cons cell m ih =>
    have hcell : cell.1 ≠ a := absent cell (by simp)
    have hm : ∀ p ∈ m, p.1 ≠ a := fun p hp => absent p (by simp [hp])
    by_cases h : a < cell.1
    · rw [Memory.insert, if_pos h, Memory.read]
      simp [eq_comm]
    · rw [Memory.insert, if_neg h, Memory.read, ih hm, Memory.read]
      by_cases hk : k = a
      · subst hk
        simp [hcell]
      · simp [hk]

theorem Memory.erase_subset (a : Nat) (m : Memory) : ∀ p ∈ Memory.erase a m, p ∈ m ∧ p.1 ≠ a := by
  induction m with
  | nil => simp [Memory.erase]
  | cons cell m ih =>
    intro p hp
    by_cases h : cell.1 = a
    · rw [Memory.erase, if_pos h] at hp
      exact ⟨by simp [(ih p hp).1], (ih p hp).2⟩
    · rw [Memory.erase, if_neg h, List.mem_cons] at hp
      rcases hp with rfl | hp
      · exact ⟨by simp, h⟩
      · exact ⟨by simp [(ih p hp).1], (ih p hp).2⟩

/-- A read after a write: the byte written at its address, the old byte everywhere else. -/
theorem Memory.read_write (a k : Nat) (b : Byte) (m : Memory) :
    Memory.read c k (Memory.write c a b m) = if k = a then b else Memory.read c k m := by
  unfold Memory.write
  split
  · next hb =>
    rw [Memory.read_erase]
    by_cases hk : k = a
    · simp [hk, hb]
    · simp [hk]
  · rw [Memory.read_insert c a k b _ fun p hp => (Memory.erase_subset a m p hp).2, Memory.read_erase]
    by_cases hk : k = a <;> simp [hk]

theorem Memory.erase_wf (a : Nat) (m : Memory) (h : Memory.wf c m) : Memory.wf c (Memory.erase a m) := by
  refine ⟨?_, fun p hp => h.2 p (Memory.erase_subset a m p hp).1⟩
  induction m with
  | nil => simp [Memory.erase]
  | cons cell m ih =>
    obtain ⟨hp, hd⟩ := h
    rw [List.pairwise_cons] at hp
    have rest := ih ⟨hp.2, fun p hm => hd p (by simp [hm])⟩
    by_cases hc : cell.1 = a
    · rw [Memory.erase, if_pos hc]
      exact rest
    · rw [Memory.erase, if_neg hc, List.pairwise_cons]
      exact ⟨fun p hm => hp.1 p (Memory.erase_subset a m p hm).1, rest⟩

theorem Memory.mem_insert (a : Nat) (b : Byte) (m : Memory) :
    ∀ p ∈ Memory.insert a b m, p = (a, b) ∨ p ∈ m := by
  induction m with
  | nil => simp [Memory.insert]
  | cons cell m ih =>
    intro p hp
    by_cases h : a < cell.1
    · rw [Memory.insert, if_pos h] at hp
      simpa using hp
    · rw [Memory.insert, if_neg h, List.mem_cons] at hp
      rcases hp with rfl | hp
      · exact .inr (by simp)
      · rcases ih p hp with h1 | h1
        · exact .inl h1
        · exact .inr (by simp [h1])

theorem Memory.insert_wf (a : Nat) (b : Byte) (m : Memory) (h : Memory.wf c m) (absent : ∀ p ∈ m, p.1 ≠ a)
    (inside : a < memSize) (fresh : b ≠ resetByte c a) : Memory.wf c (Memory.insert a b m) := by
  refine ⟨?_, fun p hp => ?_⟩
  · induction m with
    | nil => simp [Memory.insert]
    | cons cell m ih =>
      obtain ⟨hp, hd⟩ := h
      have hp' := List.pairwise_cons.mp hp
      have hne : cell.1 ≠ a := absent cell (by simp)
      by_cases hlt : a < cell.1
      · rw [Memory.insert, if_pos hlt, List.pairwise_cons]
        refine ⟨fun p hm => ?_, hp⟩
        rcases List.mem_cons.mp hm with rfl | hm
        · exact hlt
        · exact lt_trans hlt (hp'.1 p hm)
      · rw [Memory.insert, if_neg hlt, List.pairwise_cons]
        refine ⟨fun p hm => ?_, ih ⟨hp'.2, fun p hm => hd p (by simp [hm])⟩ fun p hm => absent p (by simp [hm])⟩
        rcases Memory.mem_insert a b m p hm with rfl | hm
        · show cell.1 < a
          omega
        · exact hp'.1 p hm
  · rcases Memory.mem_insert a b m p hp with rfl | hm
    · exact ⟨inside, fresh⟩
    · exact h.2 p hm

/-- A write keeps the canonical form. -/
theorem Memory.write_wf (a : Nat) (b : Byte) (m : Memory) (h : Memory.wf c m) (inside : a < memSize) :
    Memory.wf c (Memory.write c a b m) := by
  unfold Memory.write
  split
  · exact Memory.erase_wf c a m h
  · next hb =>
    exact Memory.insert_wf c a b _ (Memory.erase_wf c a m h) (fun p hp => (Memory.erase_subset a m p hp).2) inside hb

theorem Memory.wf_nil : Memory.wf c [] := by
  simp [Memory.wf]

variable (s : State)

/-- The law of MemWrite and MemRead (R61, R62, R63). -/
@[simp] theorem State.memRead_memWrite (a k : Nat) (b : Byte) :
    (s.memWrite a b).memRead k = if k % memSize = a % memSize then b else s.memRead k := by
  simp only [State.memRead, State.memWrite, Memory.read_write]

theorem State.memRead_mod (k : Nat) : s.memRead (k % memSize) = s.memRead k := by
  simp [State.memRead]

theorem State.memWrite_wf (a : Nat) (b : Byte) (h : Memory.wf s.cfg s.mem) :
    Memory.wf (s.memWrite a b).cfg (s.memWrite a b).mem :=
  Memory.write_wf _ _ _ _ h (Nat.mod_lt _ (by decide))

/-- A list write changes memory alone. -/
theorem State.memWriteList_eq (a : Nat) (bs : List Byte) :
    s.memWriteList a bs = { s with mem := (s.memWriteList a bs).mem } := by
  induction bs generalizing s a with
  | nil => rfl
  | cons b bs ih => rw [State.memWriteList, ih]; rfl

theorem State.memWriteList_wf (a : Nat) (bs : List Byte) (h : Memory.wf s.cfg s.mem) :
    Memory.wf s.cfg (s.memWriteList a bs).mem := by
  induction bs generalizing s a with
  | nil => exact h
  | cons b bs ih => exact ih (s.memWrite a b) (a + 1) (s.memWrite_wf a b h)

/-- An address that is none of those written reads as before. -/
theorem State.memRead_memWriteList_other (a k : Nat) (bs : List Byte)
    (outside : ∀ j < bs.length, k % memSize ≠ (a + j) % memSize) :
    (s.memWriteList a bs).memRead k = s.memRead k := by
  induction bs generalizing s a with
  | nil => rfl
  | cons b bs ih =>
    rw [State.memWriteList, ih, State.memRead_memWrite, if_neg (by simpa using outside 0 (by simp))]
    intro j hj
    have := outside (j + 1) (by simpa using hj)
    rwa [show a + 1 + j = a + (j + 1) by omega]

/-- Byte j of a list write of at most 4096 bytes reads back. -/
theorem State.memRead_memWriteList_at (a j : Nat) (bs : List Byte) (hj : j < bs.length) (short : bs.length ≤ memSize) :
    (s.memWriteList a bs).memRead (a + j) = bs[j] := by
  induction bs generalizing s a j with
  | nil => simp at hj
  | cons b bs ih =>
    have hlen : bs.length < memSize := by simp at short; omega
    cases j with
    | zero =>
      rw [State.memWriteList, State.memRead_memWriteList_other]
      · simp
      · intro i hi
        simp only [memSize] at hlen ⊢
        omega
    | succ j =>
      rw [State.memWriteList, show a + (j + 1) = a + 1 + j by omega, ih _ _ _ (by simpa using hj) (by omega)]
      rfl

end Sys2Proof.Machine
end

