-- ==== Sys2Proof/Laws/PerInstr.lean ====
section
/-! SUPPORT. Laws/PerInstr: the family OpcodeRow: the encoder's word of an instruction fits the instruction's own row of
opcode_table.json (R84, R85), so the encoder's fixed bits are the table's. -/

namespace Sys2Proof.Laws

/-- AND acts on the two parts of a concatenation apart. -/
theorem and_parts {m n : Nat} (a c : BitVec m) (b d : BitVec n) : (a ++ b) &&& (c ++ d) = (a &&& c) ++ (b &&& d) :=
  BitVec.and_append

/-- Format A under the mask of its op. -/
theorem formatA_and (op : Nibble) (nnn : Addr) : formatA op nnn &&& 0xF000 = formatA op 0 := by
  have h := and_parts op 0xF#4 nnn 0x000#12
  rw [show (0xF#4 : Nibble) = BitVec.allOnes 4 from rfl, BitVec.and_allOnes, BitVec.and_zero] at h
  exact h

/-- The high byte of a word under the mask of its op. -/
theorem opX_and (op : Nibble) (x : Nibble) : (op ++ x) &&& (0xF#4 ++ 0x0#4) = op ++ 0x0#4 := by
  rw [and_parts, show (0xF#4 : Nibble) = BitVec.allOnes 4 from rfl, BitVec.and_allOnes, BitVec.and_zero]

/-- The high three nibbles of a word under the mask of its op. -/
theorem opXY_and (op : Nibble) (x y : Nibble) : (op ++ x ++ y) &&& (0xF#4 ++ 0x0#4 ++ 0x0#4) = op ++ 0x0#4 ++ 0x0#4 := by
  rw [and_parts (op ++ x), opX_and, BitVec.and_zero]

/-- Format XK under the mask of its op. -/
theorem formatXK_and (op : Nibble) (x : RegIdx) (kk : Byte) : formatXK op x kk &&& 0xF000 = formatXK op 0 0 := by
  have h := and_parts (op ++ (BitVec.ofFin x : Nibble)) (0xF#4 ++ 0x0#4) kk 0x00#8
  rw [opX_and, BitVec.and_zero] at h
  exact h

/-- Format X under the mask of its op and low byte. -/
theorem formatX_and (op : Nibble) (x : RegIdx) (mm : Byte) : formatXK op x mm &&& 0xF0FF = formatXK op 0 mm := by
  have h := and_parts (op ++ (BitVec.ofFin x : Nibble)) (0xF#4 ++ 0x0#4) mm (BitVec.allOnes 8)
  rw [opX_and, BitVec.and_allOnes] at h
  exact h

/-- Format XY under the mask of its op and low nibble. -/
theorem formatXY_and (op : Nibble) (x y : RegIdx) (m : Nibble) :
    formatXYN op x y m &&& 0xF00F = formatXYN op 0 0 m := by
  have h := and_parts (op ++ (BitVec.ofFin x : Nibble) ++ (BitVec.ofFin y : Nibble)) (0xF#4 ++ 0x0#4 ++ 0x0#4) m
    (BitVec.allOnes 4)
  rw [opXY_and, BitVec.and_allOnes] at h
  exact h

/-- Format XYN under the mask of its op alone (DRW). -/
theorem formatXYN_and (op : Nibble) (x y : RegIdx) (n : Nibble) :
    formatXYN op x y n &&& 0xF000 = formatXYN op 0 0 0 := by
  have h := and_parts (op ++ (BitVec.ofFin x : Nibble) ++ (BitVec.ofFin y : Nibble)) (0xF#4 ++ 0x0#4 ++ 0x0#4) n 0x0#4
  rw [opXY_and, BitVec.and_zero] at h
  exact h

/-- The encoder's word fits the instruction's own row. -/
def OpcodeRow.Statement (i : Instr) : Prop :=
  i.row.fits (encode i) = true

theorem OpcodeRow.cls : OpcodeRow.Statement .cls :=
  rfl

theorem OpcodeRow.ret : OpcodeRow.Statement .ret :=
  rfl

theorem OpcodeRow.jp (nnn : Addr) : OpcodeRow.Statement (.jp nnn) :=
  beq_iff_eq.mpr (formatA_and _ nnn)

theorem OpcodeRow.call (nnn : Addr) : OpcodeRow.Statement (.call nnn) :=
  beq_iff_eq.mpr (formatA_and _ nnn)

theorem OpcodeRow.seImm (x : RegIdx) (kk : Byte) : OpcodeRow.Statement (.seImm x kk) :=
  beq_iff_eq.mpr (formatXK_and _ x kk)

theorem OpcodeRow.sneImm (x : RegIdx) (kk : Byte) : OpcodeRow.Statement (.sneImm x kk) :=
  beq_iff_eq.mpr (formatXK_and _ x kk)

theorem OpcodeRow.seReg (x y : RegIdx) : OpcodeRow.Statement (.seReg x y) :=
  beq_iff_eq.mpr (formatXY_and _ x y _)

theorem OpcodeRow.ldImm (x : RegIdx) (kk : Byte) : OpcodeRow.Statement (.ldImm x kk) :=
  beq_iff_eq.mpr (formatXK_and _ x kk)

theorem OpcodeRow.addImm (x : RegIdx) (kk : Byte) : OpcodeRow.Statement (.addImm x kk) :=
  beq_iff_eq.mpr (formatXK_and _ x kk)

theorem OpcodeRow.ldReg (x y : RegIdx) : OpcodeRow.Statement (.ldReg x y) :=
  beq_iff_eq.mpr (formatXY_and _ x y _)

theorem OpcodeRow.orReg (x y : RegIdx) : OpcodeRow.Statement (.orReg x y) :=
  beq_iff_eq.mpr (formatXY_and _ x y _)

theorem OpcodeRow.andReg (x y : RegIdx) : OpcodeRow.Statement (.andReg x y) :=
  beq_iff_eq.mpr (formatXY_and _ x y _)

theorem OpcodeRow.xorReg (x y : RegIdx) : OpcodeRow.Statement (.xorReg x y) :=
  beq_iff_eq.mpr (formatXY_and _ x y _)

theorem OpcodeRow.addReg (x y : RegIdx) : OpcodeRow.Statement (.addReg x y) :=
  beq_iff_eq.mpr (formatXY_and _ x y _)

theorem OpcodeRow.subReg (x y : RegIdx) : OpcodeRow.Statement (.subReg x y) :=
  beq_iff_eq.mpr (formatXY_and _ x y _)

theorem OpcodeRow.shr (x : RegIdx) : OpcodeRow.Statement (.shr x) :=
  beq_iff_eq.mpr (formatXY_and _ x 0 _)

theorem OpcodeRow.subnReg (x y : RegIdx) : OpcodeRow.Statement (.subnReg x y) :=
  beq_iff_eq.mpr (formatXY_and _ x y _)

theorem OpcodeRow.shl (x : RegIdx) : OpcodeRow.Statement (.shl x) :=
  beq_iff_eq.mpr (formatXY_and _ x 0 _)

theorem OpcodeRow.sneReg (x y : RegIdx) : OpcodeRow.Statement (.sneReg x y) :=
  beq_iff_eq.mpr (formatXY_and _ x y _)

theorem OpcodeRow.ldI (nnn : Addr) : OpcodeRow.Statement (.ldI nnn) :=
  beq_iff_eq.mpr (formatA_and _ nnn)

theorem OpcodeRow.jpV0 (nnn : Addr) : OpcodeRow.Statement (.jpV0 nnn) :=
  beq_iff_eq.mpr (formatA_and _ nnn)

theorem OpcodeRow.rnd (x : RegIdx) (kk : Byte) : OpcodeRow.Statement (.rnd x kk) :=
  beq_iff_eq.mpr (formatXK_and _ x kk)

theorem OpcodeRow.drw (x y : RegIdx) (n : Fin 16) : OpcodeRow.Statement (.drw x y n) :=
  beq_iff_eq.mpr (formatXYN_and _ x y _)

theorem OpcodeRow.skp (x : RegIdx) : OpcodeRow.Statement (.skp x) :=
  beq_iff_eq.mpr (formatX_and _ x _)

theorem OpcodeRow.sknp (x : RegIdx) : OpcodeRow.Statement (.sknp x) :=
  beq_iff_eq.mpr (formatX_and _ x _)

theorem OpcodeRow.ldVxDT (x : RegIdx) : OpcodeRow.Statement (.ldVxDT x) :=
  beq_iff_eq.mpr (formatX_and _ x _)

theorem OpcodeRow.ldVxK (x : RegIdx) : OpcodeRow.Statement (.ldVxK x) :=
  beq_iff_eq.mpr (formatX_and _ x _)

theorem OpcodeRow.ldDTVx (x : RegIdx) : OpcodeRow.Statement (.ldDTVx x) :=
  beq_iff_eq.mpr (formatX_and _ x _)

theorem OpcodeRow.ldSTVx (x : RegIdx) : OpcodeRow.Statement (.ldSTVx x) :=
  beq_iff_eq.mpr (formatX_and _ x _)

theorem OpcodeRow.addI (x : RegIdx) : OpcodeRow.Statement (.addI x) :=
  beq_iff_eq.mpr (formatX_and _ x _)

theorem OpcodeRow.ldF (x : RegIdx) : OpcodeRow.Statement (.ldF x) :=
  beq_iff_eq.mpr (formatX_and _ x _)

theorem OpcodeRow.ldB (x : RegIdx) : OpcodeRow.Statement (.ldB x) :=
  beq_iff_eq.mpr (formatX_and _ x _)

theorem OpcodeRow.storeRegs (x : RegIdx) : OpcodeRow.Statement (.storeRegs x) :=
  beq_iff_eq.mpr (formatX_and _ x _)

theorem OpcodeRow.loadRegs (x : RegIdx) : OpcodeRow.Statement (.loadRegs x) :=
  beq_iff_eq.mpr (formatX_and _ x _)

end Sys2Proof.Laws
end

