-- ==== Sys2Proof/Laws/Registers.lean ====
section
/-! SUPPORT. Laws/Registers: reads after register writes, the flag-writing pair, and the register ranges of the store
and the load. -/

namespace Sys2Proof.Machine

variable (s : State)

/-- A register read after a register write (R20). -/
@[simp] theorem State.getV_setV (x r : RegIdx) (b : Byte) : (s.setV x b).getV r = if r = x then b else s.getV r := by
  simp only [State.getV, State.setV, Vector.getElem_set, Fin.ext_iff, eq_comm]

/-- The result and the flag: VF holds the flag whatever x is (R152). -/
theorem State.getV_writeResult (x r : RegIdx) (b f : Byte) :
    (s.writeResult x b f).getV r = if r = vf then f else if r = x then b else s.getV r := by
  simp [State.writeResult]

/-- The flag-writing pair writes registers alone. -/
theorem State.writeResult_eq (x : RegIdx) (b f : Byte) :
    s.writeResult x b f = { s with v := (s.writeResult x b f).v } := rfl

theorem regOf_eq {k : Nat} (r : RegIdx) (hk : k < 16) : r = regOf k ↔ r.val = k := by
  simp [regOf, Fin.ext_iff, Nat.mod_eq_of_lt hk]

/-- The register store changes memory alone. -/
theorem State.storeRange_eq (n : Nat) : s.storeRange n = { s with mem := (s.storeRange n).mem } := by
  induction n with
  | zero => rfl
  | succ n ih => rw [State.storeRange, ih]; rfl

theorem State.storeRange_cfg (n : Nat) : (s.storeRange n).cfg = s.cfg := by
  rw [State.storeRange_eq]

theorem State.storeRange_wf (n : Nat) (h : Memory.wf s.cfg s.mem) : Memory.wf s.cfg (s.storeRange n).mem := by
  induction n with
  | zero => exact h
  | succ n ih =>
    have := (s.storeRange n).memWrite_wf (s.dataAddr n) (s.getV (regOf n)) (by rwa [State.storeRange_cfg])
    rwa [State.memWrite_cfg, State.storeRange_cfg] at this

/-- An address that is none of the n stored bytes reads as before (R164). -/
theorem State.memRead_storeRange_other (n k : Nat) (outside : ∀ j < n, k % memSize ≠ (s.i.toNat + j) % memSize) :
    (s.storeRange n).memRead k = s.memRead k := by
  induction n with
  | zero => rfl
  | succ n ih =>
    rw [State.storeRange, State.memRead_memWrite, State.dataAddr, if_neg (outside n (by omega)), ih fun j hj => outside j (by omega)]

/-- Byte j of the stored range is register j (R164). -/
theorem State.memRead_storeRange_at (n j : Nat) (hj : j < n) (hn : n ≤ 16) :
    (s.storeRange n).memRead (s.i.toNat + j) = s.getV (regOf j) := by
  induction n with
  | zero => omega
  | succ n ih =>
    rw [State.storeRange, State.memRead_memWrite, State.dataAddr]
    by_cases h : j = n
    · rw [if_pos (by rw [h]), h]
    · rw [if_neg (by simp only [memSize]; omega), ih (by omega) (by omega)]

/-- The register load writes registers alone. -/
theorem State.loadRange_eq (n : Nat) : s.loadRange n = { s with v := (s.loadRange n).v } := by
  induction n with
  | zero => rfl
  | succ n ih => rw [State.loadRange, ih]; rfl

/-- Registers below n are loaded, the others are as before (R165). -/
theorem State.getV_loadRange (n : Nat) (r : RegIdx) (hn : n ≤ 16) :
    (s.loadRange n).getV r = if r.val < n then s.memRead (s.i.toNat + r.val) else s.getV r := by
  induction n with
  | zero => simp [State.loadRange]
  | succ n ih =>
    rw [State.loadRange, State.getV_setV, ih (by omega)]
    by_cases h : r.val = n
    · rw [if_pos ((regOf_eq r (by omega)).mpr h), if_pos (by omega), State.dataAddr, h]
    · rw [if_neg (fun e => h ((regOf_eq r (by omega)).mp e))]
      by_cases h2 : r.val < n
      · rw [if_pos h2, if_pos (by omega)]
      · rw [if_neg h2, if_neg (by omega)]

/-- The post-increment touches I alone, and only under Q_MEM_INC_I. -/
theorem State.incIndex_eq (n : Nat) :
    s.incIndex n = { s with i := if s.cfg.qMemIncI then BitVec.ofNat 12 (s.i.toNat + n) else s.i } := by
  unfold State.incIndex
  split <;> rfl

/-- A skip touches PC alone (R128). -/
theorem State.skipIf_eq (cond : Bool) :
    s.skipIf cond = { s with pc := if cond then s.pc + 2 else s.pc } := by
  cases cond <;> rfl

end Sys2Proof.Machine
end

