-- ==== Sys2Proof/Tests/Slice0.lean ====
section
/-! SUPPORT. Tests: words written out from the spec's opcode map (R85) and faulting words (R86), single steps with the
expected values of 95_test_vectors.md (S1 to S11, V1 to V155), and for each statement with hypotheses a witness that
meets them. -/

namespace Sys2Proof.Machine.Tests

/-! ## Helpers -/

/-- The reset state with some registers set. -/
def regs (l : List (RegIdx × Byte)) : State :=
  l.foldl (fun s p => s.setV p.1 p.2) State.reset

/-- The state one STEP after a word is placed at PC. -/
def after (w : Nat) (s : State) : State :=
  match step (s.withFetchWord 16 w) with
  | .next t => t
  | .fault _ => s
  | .refused _ => s

/-- The registers of a list, read. -/
def reads (s : State) (l : List RegIdx) : List Byte :=
  l.map s.getV

/-- Bytes read from an address on. -/
def bytes (s : State) (a n : Nat) : List Byte :=
  (List.range n).map fun k => s.memRead (a + k)

/-- The lit pixels of row y, as their columns. -/
def lit (s : State) (y : Nat) : List Nat :=
  (List.range 64).filter fun x => s.pixel x y

/-- The spec's default configuration with one quirk switch on. -/
def quirk (c : Config → Config) (s : State) : State :=
  { s with cfg := c s.cfg }

/-! ## Decoding: one word per instruction, from R85 -/

theorem test_decode_control :
    decode 0x00EE = .ok .ret ∧ decode 0x1204 = .ok (.jp 0x204) ∧ decode 0x2210 = .ok (.call 0x210) ∧
    decode 0x3A3C = .ok (.seImm 0xA 0x3C) ∧ decode 0x4311 = .ok (.sneImm 3 0x11) ∧
    decode 0x5120 = .ok (.seReg 1 2) ∧ decode 0x9120 = .ok (.sneReg 1 2) ∧ decode 0xB300 = .ok (.jpV0 0x300) := by
  decide

theorem test_decode_alu :
    decode 0x6A3C = .ok (.ldImm 0xA 0x3C) ∧ decode 0x7002 = .ok (.addImm 0 2) ∧ decode 0x8120 = .ok (.ldReg 1 2) ∧
    decode 0x8121 = .ok (.orReg 1 2) ∧ decode 0x8122 = .ok (.andReg 1 2) ∧ decode 0x8123 = .ok (.xorReg 1 2) ∧
    decode 0x8124 = .ok (.addReg 1 2) ∧ decode 0x8125 = .ok (.subReg 1 2) ∧ decode 0x8126 = .ok (.shr 1) ∧
    decode 0x8127 = .ok (.subnReg 1 2) ∧ decode 0x812E = .ok (.shl 1) ∧ decode 0xC30F = .ok (.rnd 3 0x0F) := by
  decide

theorem test_decode_index_display :
    decode 0xA2F0 = .ok (.ldI 0x2F0) ∧ decode 0xF11E = .ok (.addI 1) ∧ decode 0xF229 = .ok (.ldF 2) ∧
    decode 0xF333 = .ok (.ldB 3) ∧ decode 0xF255 = .ok (.storeRegs 2) ∧ decode 0xF465 = .ok (.loadRegs 4) ∧
    decode 0x00E0 = .ok .cls ∧ decode 0xD125 = .ok (.drw 1 2 5) ∧ decode 0xD010 = .ok (.drw 0 1 0) := by
  decide

theorem test_decode_timers_keys :
    decode 0xF407 = .ok (.ldVxDT 4) ∧ decode 0xF30A = .ok (.ldVxK 3) ∧ decode 0xF315 = .ok (.ldDTVx 3) ∧
    decode 0xF018 = .ok (.ldSTVx 0) ∧ decode 0xE29E = .ok (.skp 2) ∧ decode 0xE2A1 = .ok (.sknp 2) := by
  decide

/-- The table's numbering is the word's own (bit 0 is w[0]), here written out bit by bit: 6xkk with x = A, kk = 3C. -/
theorem test_decode_table_word : decodeTableWord 16 0b0110101000111100 = some (.ldImm 0xA 0x3C) := by
  decide

/-! ## Ill-formed words: each check of the table refuses one (R86, V130 to V137) -/

theorem test_refuse_family_0 : wellFormed 0x0000 = false ∧ wellFormed 0x00E1 = false ∧ wellFormed 0x0123 = false ∧
    decode 0x0000 = .error (.unknownOpcode 0x0000) := by
  decide

theorem test_refuse_families_5_9 : wellFormed 0x5121 = false ∧ wellFormed 0x9121 = false ∧
    decode 0x5121 = .error (.unknownOpcode 0x5121) ∧ decode 0x9121 = .error (.unknownOpcode 0x9121) := by
  decide

theorem test_refuse_family_8 : wellFormed 0x8128 = false ∧ wellFormed 0x8129 = false ∧ wellFormed 0x812A = false ∧
    wellFormed 0x812B = false ∧ wellFormed 0x812C = false ∧ wellFormed 0x812D = false ∧
    wellFormed 0x812F = false ∧
    decode 0x8128 = .error (.unknownOpcode 0x8128) ∧ decode 0x812F = .error (.unknownOpcode 0x812F) := by
  decide

theorem test_refuse_family_E : wellFormed 0xE29F = false ∧ wellFormed 0xE2A0 = false ∧ wellFormed 0xE200 = false ∧
    decode 0xE29F = .error (.unknownOpcode 0xE29F) := by
  decide

theorem test_refuse_family_F : wellFormed 0xF208 = false ∧ wellFormed 0xF20B = false ∧ wellFormed 0xF216 = false ∧
    wellFormed 0xF21F = false ∧ wellFormed 0xF230 = false ∧ wellFormed 0xF256 = false ∧
    decode 0xF208 = .error (.unknownOpcode 0xF208) := by
  decide

theorem test_refuse_family_F_later_machines : wellFormed 0xF275 = false ∧ wellFormed 0xF285 = false ∧ wellFormed 0xF2FF = false ∧
    decode 0xF275 = .error (.unknownOpcode 0xF275) := by
  decide

/-! ## Single steps: control transfer -/

/-- V1. -/
theorem test_jp : (after 0x1204 { State.reset with pc := 0x20A }).pc = 0x204 := by decide

/-- V4, V5: CALL pushes pc0 + 2, also across the top of memory. -/
theorem test_call : (after 0x2210 { State.reset with pc := 0x204 }).pc = 0x210 ∧
    (after 0x2210 { State.reset with pc := 0x204 }).stk[0] = 0x206 ∧
    (after 0x2300 { State.reset with pc := 0xFFE }).stk[0] = 0x000 := by decide

/-- V6. -/
theorem test_call_overflow : (after 0x2210 { State.reset with sp := 16 }).fault = some .stackOverflow ∧
    (after 0x2210 { State.reset with sp := 16 }).pc = 0x202 ∧
    (after 0x2210 { State.reset with sp := 16 }).sp = 16 := by decide

/-- V7. -/
theorem test_ret : (after 0x00EE { State.reset with sp := 1, stk := State.reset.stk.set 0 0x206 }).pc = 0x206 ∧
    (after 0x00EE { State.reset with sp := 1, stk := State.reset.stk.set 0 0x206 }).sp = 0 := by decide

/-- V8. -/
theorem test_ret_underflow : (after 0x00EE State.reset).fault = some .stackUnderflow ∧
    (after 0x00EE State.reset).status = .halted ∧ (after 0x00EE State.reset).pc = 0x202 := by decide

/-- V9, V10, V18: a taken skip, one not taken, and one across the top of memory. -/
theorem test_se_imm : (after 0x3A3C (regs [(0xA, 0x3C)])).pc = 0x204 ∧ (after 0x3A3C (regs [(0xA, 0x3D)])).pc = 0x202 ∧
    (after 0x3000 { State.reset with pc := 0xFFE }).pc = 0x002 := by decide

/-- V11, V12. -/
theorem test_sne_imm : (after 0x4A3C (regs [(0xA, 0x3D)])).pc = 0x204 ∧ (after 0x4A3C (regs [(0xA, 0x3C)])).pc = 0x202 := by
  decide

/-- V13, V14. -/
theorem test_se_reg : (after 0x5120 (regs [(1, 7), (2, 7)])).pc = 0x204 ∧ (after 0x5120 (regs [(1, 7), (2, 8)])).pc = 0x202 := by
  decide

/-- V16, V17. -/
theorem test_sne_reg : (after 0x9120 (regs [(1, 7), (2, 8)])).pc = 0x204 ∧ (after 0x9120 (regs [(1, 7), (2, 7)])).pc = 0x202 := by
  decide

/-- V19, V20. -/
theorem test_jp_v0 : (after 0xB300 (regs [(0, 0x04)])).pc = 0x304 ∧ (after 0xBFFF (regs [(0, 0xFF)])).pc = 0x0FE := by decide

/-! ## Single steps: ALU -/

/-- S1, V22: also fetched across the top of memory. -/
theorem test_ld_imm : reads (after 0x6A3C State.reset) [0xA] = [0x3C] ∧ (after 0x6A3C State.reset).pc = 0x202 ∧
    reads (after 0x6A3C { State.reset with pc := 0xFFF }) [0xA] = [0x3C] ∧
    (after 0x6A3C { State.reset with pc := 0xFFF }).pc = 0x001 := by decide

/-- V30, V31. -/
theorem test_add_imm : reads (after 0x7002 (regs [(0, 0xFF)])) [0, 15] = [0x01, 0] ∧
    reads (after 0x7F01 (regs [(15, 0xFF)])) [15] = [0x00] := by decide

/-- V32. -/
theorem test_ld_reg : reads (after 0x8120 (regs [(2, 0x7E)])) [1, 2] = [0x7E, 0x7E] := by decide

/-- V33, V34, V35: VF is not reset. -/
theorem test_logic : reads (after 0x8011 (regs [(0, 0xF0), (1, 0x0F), (15, 1)])) [0, 15] = [0xFF, 1] ∧
    reads (after 0x8012 (regs [(0, 0xF0), (1, 0x3C), (15, 1)])) [0, 15] = [0x30, 1] ∧
    reads (after 0x8013 (regs [(0, 0xF0), (1, 0x3C), (15, 1)])) [0, 15] = [0xCC, 1] := by decide

/-- S3, V37. -/
theorem test_add_reg : reads (after 0x8014 (regs [(0, 0xFF), (1, 0x01)])) [0, 15] = [0x00, 1] ∧
    reads (after 0x8014 (regs [(0, 0x80), (1, 0x7F)])) [0, 15] = [0xFF, 0] := by decide

/-- V40, V41: VF as destination and as second operand. -/
theorem test_add_reg_vf : reads (after 0x8F14 (regs [(15, 0xFF), (1, 0x02)])) [15] = [0x01] ∧
    reads (after 0x80F4 (regs [(0, 0xFF), (15, 0x01)])) [0, 15] = [0x00, 1] := by decide

/-- S4, V42. -/
theorem test_sub : reads (after 0x8015 (regs [(0, 0x01), (1, 0x02)])) [0, 15] = [0xFF, 0] ∧
    reads (after 0x8015 (regs [(0, 0x05), (1, 0x05)])) [0, 15] = [0x00, 1] := by decide

/-- V44: the inverted borrow flag. -/
theorem test_sub_inverted :
    reads (after 0x8015 (quirk (fun c => { c with qBorrowInvert := true }) (regs [(0, 0x01), (1, 0x02)]))) [0, 15] =
      [0xFF, 1] := by decide

/-- S5, V48, V49. -/
theorem test_shr : reads (after 0x8006 (regs [(0, 0x01)])) [0, 15] = [0x00, 1] ∧
    reads (after 0x8016 (regs [(0, 0xFE), (1, 0x55)])) [0, 1, 15] = [0x7F, 0x55, 0] ∧
    reads (after 0x8F06 (regs [(15, 0x02)])) [15] = [0] := by decide

/-- V45, V46. -/
theorem test_subn : reads (after 0x8017 (regs [(0, 0x02), (1, 0x01)])) [0, 15] = [0xFF, 0] ∧
    reads (after 0x8017 (regs [(0, 0x01), (1, 0x03)])) [0, 15] = [0x02, 1] := by decide

/-- V50, V52. -/
theorem test_shl : reads (after 0x800E (regs [(0, 0x81)])) [0, 15] = [0x02, 1] ∧
    reads (after 0x8F0E (regs [(15, 0x81)])) [15] = [1] := by decide

/-- V53 for the drawn byte 0xB7, and V54 for the free one. -/
theorem test_rnd : (State.reset.loadMasked 3 0x0F 0xB7).getV 3 = 0x07 ∧ (after 0xC300 State.reset).draws = 1 := by decide

/-! ## Single steps: index and memory -/

/-- S2. -/
theorem test_ld_i : (after 0xA2F0 State.reset).i = 0x2F0 ∧ (after 0xA2F0 State.reset).pc = 0x202 := by decide

/-- V67, V68. -/
theorem test_add_i : (after 0xF11E { regs [(1, 0x20)] with i := 0xFF0 }).i = 0x010 ∧
    reads (after 0xF11E { regs [(1, 0x20)] with i := 0xFF0 }) [15] = [0] ∧
    reads (after 0xF11E (quirk (fun c => { c with qAddIVF := true }) { regs [(1, 0x20)] with i := 0xFF0 })) [15] = [1] := by
  decide

/-- V70, V72. -/
theorem test_ld_f : (after 0xF229 (regs [(2, 0x0A)])).i = 0x082 ∧ (after 0xF229 (regs [(2, 0x1A)])).i = 0x0D2 := by decide

/-- V73, V77. -/
theorem test_ld_b : bytes (after 0xF033 { regs [(0, 254)] with i := 0x300 }) 0x300 3 = [2, 5, 4] ∧
    bytes (after 0xF033 { regs [(0, 100)] with i := 0xFFE }) 0xFFE 3 = [1, 0, 0] := by decide

/-- V60, V62, V63. -/
theorem test_store_regs :
    bytes (after 0xF255 { regs [(0, 0x11), (1, 0x22), (2, 0x33)] with i := 0x400 }) 0x400 4 = [0x11, 0x22, 0x33, 0] ∧
    bytes (after 0xF155 { regs [(0, 0xAA), (1, 0xBB)] with i := 0xFFF }) 0xFFF 2 = [0xAA, 0xBB] ∧
    (after 0xF255 (quirk (fun c => { c with qMemIncI := true }) { State.reset with i := 0x400 })).i = 0x403 := by decide

/-- V61, over font bytes: glyph 0 at 0x050 is F0 90 90 90 F0 (R68). -/
theorem test_load_regs : reads (after 0xF265 { State.reset with i := 0x050 }) [0, 1, 2, 3] = [0xF0, 0x90, 0x90, 0] ∧
    (after 0xF265 { State.reset with i := 0x050 }).i = 0x050 := by decide

/-! ## Single steps: display -/

/-- V80. -/
theorem test_cls : lit (after 0x00E0 (State.reset.setScreen (Vector.replicate 32 1))) 0 = [] ∧
    (after 0x00E0 State.reset).dirty = true := by decide

/-- V86: clipped at the right edge and at the bottom. -/
theorem test_drw_clips :
    lit (after 0xD012 { (regs [(0, 62), (1, 31)]).memWriteList 0x300 [0xFF, 0x81] with i := 0x300 }) 31 = [62, 63] ∧
    lit (after 0xD012 { (regs [(0, 62), (1, 31)]).memWriteList 0x300 [0xFF, 0x81] with i := 0x300 }) 0 = [] ∧
    reads (after 0xD012 { (regs [(0, 62), (1, 31)]).memWriteList 0x300 [0xFF, 0x81] with i := 0x300 }) [15] = [0] := by
  decide

/-- V92: wrapped, with a collision. -/
theorem test_drw_wraps :
    lit (after 0xD011 (quirk (fun c => { c with qDrawWrap := true })
      { (regs [(0, 57)]).memWriteList 0x300 [0x03] with i := 0x300, fb := pixelFlip blankFrame 63 0 })) 0 = [0] ∧
    reads (after 0xD011 (quirk (fun c => { c with qDrawWrap := true })
      { (regs [(0, 57)]).memWriteList 0x300 [0x03] with i := 0x300, fb := pixelFlip blankFrame 63 0 })) [15] = [1] := by
  decide

/-! ## Single steps: timers, keys, the wait -/

/-- V100, V101, V102. -/
theorem test_timers : (after 0xF315 (regs [(3, 7)])).dt = 7 ∧
    reads (after 0xF407 { State.reset with dt := 0x2A }) [4] = [0x2A] ∧ (after 0xF018 (regs [(0, 2)])).st = 2 := by decide

/-- V107, V108, V111. -/
theorem test_skp : (after 0xE29E { regs [(2, 5)] with pc := 0x220, key := 0x0020 }).pc = 0x224 ∧
    (after 0xE29E { regs [(2, 5)] with pc := 0x220 }).pc = 0x222 ∧
    (after 0xE29E { regs [(2, 0x15)] with pc := 0x220, key := 0x0020 }).pc = 0x224 := by decide

/-- V109, V110. -/
theorem test_sknp : (after 0xE2A1 { regs [(2, 5)] with pc := 0x220 }).pc = 0x224 ∧
    (after 0xE2A1 { regs [(2, 5)] with pc := 0x220, key := 0x0020 }).pc = 0x222 := by decide

/-- V112, V115: the entry, with a key held. -/
theorem test_wait_entry : (after 0xF30A { State.reset with key := 0x0080 }).status = .awaitingKey 3 ∧
    (after 0xF30A { State.reset with key := 0x0080 }).pc = 0x200 ∧
    (after 0xF30A { State.reset with key := 0x0080 }).keyPrev = 0x0080 := by decide

/-- V117: keys 4 and 9 at once, the lowest wins. -/
theorem test_poll : ∃ t, step { State.reset with status := .awaitingKey 3, key := 0x0210 } = .next t ∧ t.getV 3 = 4 ∧
    t.pc = 0x202 ∧ t.status = .running :=
  ⟨_, rfl, by decide⟩

/-- V103, V105. -/
theorem test_tick : ({ State.reset with dt := 7, st := 2 } : State).tick.dt = 6 ∧
    ({ State.reset with dt := 7, st := 2 } : State).tick.st = 1 ∧ State.reset.tick.dt = 0 := by decide

/-- V130, V138: unloaded memory faults, and then nothing changes. -/
theorem test_unknown : (after 0x0000 State.reset).fault = some (.unknownOpcode 0x0000 0x200) ∧
    (after 0x0000 State.reset).status = .halted := by decide

/-- V150: glyph F at 0x09B is F0 80 F0 80 80 (R68). -/
theorem test_reset_font : bytes State.reset 0x04F 2 = [0, 0xF0] ∧ bytes State.reset 0x09B 6 = [0xF0, 0x80, 0xF0, 0x80, 0x80, 0] := by
  decide

/-- V151, V155: LOAD recovers a Halted core. -/
theorem test_load : bytes ((after 0x0000 State.reset).load [0x12, 0x00]).1 0x200 3 = [0x12, 0x00, 0] ∧
    ((after 0x0000 State.reset).load [0x12, 0x00]).1.status = .running ∧
    ((after 0x0000 State.reset).load [0x12, 0x00]).1.fault = none := by decide

/-- R225: the codes. -/
theorem test_codes : faultCode none = 0 ∧ faultCode (some (.unknownOpcode 0 0)) = 1 ∧ faultCode (some .stackOverflow) = 2 ∧
    faultCode (some .stackUnderflow) = 3 := by decide

/-! ## Witnesses: the hypotheses of each statement are met -/

/-- A core waiting for a key, at its own LD V3,K. -/
def waiting : State :=
  { (State.reset.memWriteList 0x200 [0xF3, 0x0A]) with status := .awaitingKey 3 }

/-- A core halted by an unknown word. -/
def halted : State :=
  { State.reset with pc := 0x202, status := .halted, fault := some (.unknownOpcode 0 0x200) }

theorem witness_DecodeByTable : decode 0x8126 = .ok (.shr 1) ∧ State.reset.status = .running ∧
    ∀ r ∈ opcodeRows, r.fits State.reset.fetchWord = false := by decide

theorem witness_IgnoredFields : decode 0x8106 = .ok (.shr 1) ∧ decode 0x81F6 = .ok (.shr 1) := by decide

theorem witness_StepRunsInstruction :
    ∃ s : State, s.status = .running ∧
      decode (joinBytes (s.memRead s.pc.toNat) (s.memRead ((s.pc.toNat + 1) % 4096))) = .ok (.ldImm 0xA 0x3C) :=
  ⟨{ State.reset.memWriteList 0xFFF [0x6A, 0x3C] with pc := 0xFFF }, by decide⟩

theorem witness_UnknownOpcodeRaised : ∃ t, State.reset.status = .running ∧ step State.reset = .next t ∧
    stepReply State.reset t = .fault (.unknownOpcode 0 0x200) :=
  ⟨_, by decide, rfl, by decide⟩

theorem witness_FaultEntry : ∃ t, step (State.reset.withFetchWord 16 0x00EE) = .next t ∧
    stepReply (State.reset.withFetchWord 16 0x00EE) t = .fault .stackUnderflow :=
  ⟨_, rfl, by decide⟩

theorem witness_StepFaults_running : ∃ t, step ({ State.reset with sp := 16 }.withFetchWord 16 0x2300) = .next t ∧
    stepReply ({ State.reset with sp := 16 }.withFetchWord 16 0x2300) t = .fault .stackOverflow :=
  ⟨_, rfl, by decide⟩

theorem witness_StepFaults_waiting : ∃ t, step waiting = .next t ∧ waiting.status ≠ .running :=
  ⟨_, rfl, by decide⟩

theorem witness_HaltedStep : halted.status = .halted := by decide

theorem witness_StepEvents_continued : ∃ t, step (State.reset.withFetchWord 16 0x00E0) = .next t ∧
    stepReply (State.reset.withFetchWord 16 0x00E0) t = .event .continued :=
  ⟨_, rfl, by decide⟩

theorem witness_StepEvents_awaiting : ∃ t, step waiting = .next t ∧ stepReply waiting t = .event .awaitingKey :=
  ⟨_, rfl, by decide⟩

theorem witness_StepEvents_halted : ∃ t, step halted = .next t ∧ stepReply halted t = .event .halted :=
  ⟨_, rfl, by decide⟩

theorem witness_PollKeys_no_edge : waiting.status = .awaitingKey 3 ∧ ∀ k : RegIdx, ¬waiting.keyEdge k :=
  ⟨rfl, by unfold State.keyEdge; decide⟩

/-- The least edge at the last key, 15, and at the first, 0. -/
theorem witness_PollKeys_edge :
    (({ waiting with key := 0x8000 } : State).keyEdge 15 ∧
      ∀ j : RegIdx, j < 15 → ¬({ waiting with key := 0x8000 } : State).keyEdge j) ∧
    ({ waiting with key := 0x8001 } : State).keyEdge 0 := by
  unfold State.keyEdge
  decide

/-- A state with a nonempty memory list that meets the invariant, and its step. -/
theorem witness_StepKeepsInv : ∃ t, (State.reset.withFetchWord 16 0x00E0).Inv ∧
    step (State.reset.withFetchWord 16 0x00E0) = .next t :=
  ⟨_, ⟨by decide, ⟨by decide, fun _ h => absurd h (by decide +revert)⟩, fun _ h => absurd h (by decide +revert)⟩, rfl⟩

/-- A waiting state meets the invariant, its wait clause included. -/
theorem witness_HostOpsKeepInv : waiting.Inv :=
  ⟨by decide, ⟨by decide, fun _ h => absurd h (by decide +revert)⟩, fun x h => by
    obtain rfl : (3 : RegIdx) = x := Status.awaitingKey.inj h
    decide⟩

theorem witness_ConfigConstant : ∀ c : Config, HostOp.tick ≠ .reset c := by
  intro c
  simp

theorem witness_LoadProgram : (List.replicate 3584 (0 : Byte)).length ≤ 3584 ∧ 3584 < (List.replicate 3585 (0 : Byte)).length := by
  rw [List.length_replicate, List.length_replicate]
  decide

theorem witness_BootSequence : ([] : List Byte).length + 2 ≤ 3584 ∧ (List.replicate 3582 (0 : Byte)).length + 2 ≤ 3584 ∧
    decode (joinBytes 0x12 0x00) = .ok (.jp 0x200) := by
  refine ⟨by decide, by rw [List.length_replicate], by decide⟩

theorem witness_HaltedStays : halted.status = .halted ∧ (∀ c : Config, HostOp.step ≠ .reset c) ∧
    ∀ b : List Byte, HostOp.step ≠ .load b := by
  refine ⟨rfl, ?_, ?_⟩ <;> simp

theorem witness_WaitPersists : waiting.status = .awaitingKey 3 ∧ (∀ c : Config, HostOp.step ≠ .reset c) ∧
    (∀ b : List Byte, HostOp.step ≠ .load b) ∧ (HostOp.step = .step → ∀ k, ¬waiting.keyEdge k) :=
  ⟨rfl, by simp, by simp, fun _ => by unfold State.keyEdge; decide⟩

theorem witness_RegisterFrame : ∃ t, exec (.addReg 1 2) State.reset = .next t ∧ ¬mayWriteReg State.reset.cfg 3 (.addReg 1 2) :=
  ⟨_, rfl, by simp [mayWriteReg, vf]⟩

theorem witness_IndexAndPcFrame : ∃ t, exec (.storeRegs 2) State.reset = .next t ∧
    ¬mayWriteI State.reset.cfg (.storeRegs 2) ∧ ¬mayWritePc (.storeRegs 2) :=
  ⟨_, rfl, by simp [mayWriteI, mayWritePc, State.reset, State.resetWith, defaultConfig]⟩

/-- The byte just past the three of LD B, and the one just past the last of LD [I],VF at the top of memory. -/
theorem witness_MemoryFrame :
    (∃ t, exec (.ldB 1) State.reset = .next t) ∧ (∀ j < 3, 3 % 4096 ≠ (State.reset.i.toNat + j) % 4096) ∧
    (∃ t, exec (.storeRegs 15) { State.reset with i := 0xFFF } = .next t) ∧
    (∀ j < 16, 15 % 4096 ≠ (({ State.reset with i := 0xFFF } : State).i.toNat + j) % 4096) :=
  ⟨⟨_, rfl⟩, by decide, ⟨_, rfl⟩, by decide⟩

theorem witness_StackFrame : (∃ t, exec (.call 0x300) State.reset = .next t) ∧
    (∃ t, exec .cls State.reset = .next t) ∧ (∀ nnn, Instr.cls ≠ .call nnn) ∧ Instr.cls ≠ .ret :=
  ⟨⟨_, rfl⟩, ⟨_, rfl⟩, by simp, by simp⟩

theorem witness_DeviceFrame : (∃ t, exec (.ldImm 1 2) State.reset = .next t) ∧ (∀ x, Instr.ldImm 1 2 ≠ .ldDTVx x) ∧
    (∀ x, Instr.ldImm 1 2 ≠ .ldSTVx x) ∧ Instr.ldImm 1 2 ≠ .cls ∧ (∀ x y n, Instr.ldImm 1 2 ≠ .drw x y n) ∧
    (∀ x, Instr.ldImm 1 2 ≠ .ldVxK x) :=
  ⟨⟨_, rfl⟩, by simp, by simp, by simp, by simp, by simp⟩

/-- The last CALL that succeeds, at SP = 15. -/
theorem witness_ControlFrame : (∃ t, exec (.call 0x300) { State.reset with sp := 15 } = .next t) ∧
    (∀ x, Instr.call 0x300 ≠ .ldVxK x) ∧ ({ State.reset with sp := 15 } : State).sp.val < 16 ∧
    Instr.call 0x300 ≠ .ret ∧ (∀ x kk, Instr.call 0x300 ≠ .rnd x kk) :=
  ⟨⟨_, rfl⟩, by simp, by decide, by simp, by simp⟩

theorem witness_SoundAndDirtyUnread : ∃ t, step (State.reset.withFetchWord 16 0xF018) = .next t :=
  ⟨_, rfl⟩

theorem witness_RetPops : 0 < ({ State.reset with sp := 1 } : State).sp.val ∧
    0 < ({ State.reset with sp := 16 } : State).sp.val ∧ State.reset.sp.val = 0 ∧
    ({ State.reset with sp := 15 } : State).sp.val < 16 ∧
    ∃ t, exec (.call 0x300) { State.reset with sp := 15 } = .next t :=
  ⟨by decide, by decide, by decide, by decide, ⟨_, rfl⟩⟩

/-- A core that does CALL 0x300 over and over. -/
def nested : Nat → State
  | 0 => State.reset
  | k + 1 =>
    match exec (.call 0x300) (nested k) with
    | .next t => t
    | .fault _ => nested k
    | .refused _ => nested k

theorem witness_CallPushes : State.reset.sp.val < 16 ∧ ({ State.reset with sp := 15 } : State).sp.val < 16 ∧
    ({ State.reset with sp := 16 } : State).sp.val = 16 ∧
    (nested 0).sp.val = 0 ∧ (nested 0).status = .running ∧
    ∀ k < 17, exec (.call 0x300) (nested k) = .next (nested (k + 1)) := by
  refine ⟨by decide, by decide, by decide, rfl, rfl, fun k _ => ?_⟩
  simp only [nested, exec, execCall, raise]
  split <;> rfl

theorem witness_JpJumps : (State.reset.withFetchWord 16 0x1200).status = .running ∧
    decode (State.reset.withFetchWord 16 0x1200).fetchWord = .ok (.jp (State.reset.withFetchWord 16 0x1200).pc) := by
  decide

theorem witness_SelfJump : (State.reset.withFetchWord 16 0x1200).atSelfJump := by
  unfold State.atSelfJump
  decide

/-- Both settings of Q_BORROW_INVERT. -/
theorem witness_Subtract : State.reset.cfg.qBorrowInvert = false ∧
    (quirk (fun c => { c with qBorrowInvert := true }) State.reset).cfg.qBorrowInvert = true := by decide

/-- Both settings of Q_ADDI_VF. -/
theorem witness_AddIndex : State.reset.cfg.qAddIVF = false ∧
    (quirk (fun c => { c with qAddIVF := true }) State.reset).cfg.qAddIVF = true := by decide

theorem witness_StoreDigits : ∀ j < 3, 0x301 % 4096 ≠ (({ State.reset with i := 0x2FE } : State).i.toNat + j) % 4096 := by
  decide

/-- The widest store, x = 15: the first byte past it and the last before it. -/
theorem witness_StoreRegisters : (∀ j < 16, 0x310 % 4096 ≠ (({ State.reset with i := 0x300 } : State).i.toNat + j) % 4096) ∧
    (∀ j < 16, 0x2FF % 4096 ≠ (({ State.reset with i := 0x300 } : State).i.toNat + j) % 4096) ∧ (15 : RegIdx) ≤ 15 := by
  decide

theorem witness_LoadRegisters : ∃ t, exec (.storeRegs 15) { State.reset with i := 0xFFF } = .next t :=
  ⟨_, rfl⟩

theorem witness_StoreThenFetch : (1 : RegIdx) ≤ 1 ∧ ({ State.reset with i := 0x200 } : State).i = State.reset.pc ∧
    ∃ t, exec (.storeRegs 1) { State.reset with i := 0x200 } = .next t :=
  ⟨by decide, by decide, ⟨_, rfl⟩⟩

/-- A pixel the sprite covers, in the last corner of the frame, and one it does not. -/
theorem witness_DrawSprite :
    spriteCovers { regs [(0, 63), (1, 31)] with i := 0x050 } 0 1 1 63 31 ∧
    ¬spriteCovers { regs [(0, 63), (1, 31)] with i := 0x050 } 0 1 1 0 0 := by
  unfold spriteCovers
  decide

theorem witness_DrawTwice : ∃ t u, exec (.drw 0 1 5) { State.reset with i := 0x050 } = .next t ∧
    exec (.drw 0 1 5) t = .next u ∧ (t.getV 0).toNat % 64 = (State.reset.getV 0).toNat % 64 ∧
    (t.getV 1).toNat % 32 = (State.reset.getV 1).toNat % 32 ∧ lit State.reset 0 = [] :=
  ⟨_, _, rfl, rfl, by decide⟩

/-- The largest key index, from a register value above 15. -/
theorem witness_KeySkips : (15 : RegIdx).val = ((regs [(2, 0xFF)]).getV 2).toNat % 16 := by decide

theorem witness_WaitEntry : ({ State.reset with pc := 0x000 } : State).pc = 0xFFE + 2 ∧
    (State.reset.withFetchWord 16 0xF30A).status = .running ∧
    decode (State.reset.withFetchWord 16 0xF30A).fetchWord = .ok (.ldVxK 3) := by decide

end Sys2Proof.Machine.Tests
end

/-! # What a STEP can do, the invariant, and the configuration inputs (00_scope.md R8, R12) -/

namespace Sys2Proof.Machine

/-! ## What an instruction can do -/

/-- STATUS, FAULT and the configuration are as before and memory stays in canonical form: what every instruction does
that neither waits for a key nor raises a fault. -/
structure KeepsControl (s t : State) : Prop where
  control : SameControl s t
  memory : Memory.wf s.cfg s.mem → Memory.wf t.cfg t.mem

theorem KeepsControl.of_mem_eq {s t : State} (control : SameControl s t) (mem : t.mem = s.mem) : KeepsControl s t :=
  ⟨control, fun h => by rwa [control.2.2, mem]⟩

theorem KeepsControl.trans {s t u : State} (h : KeepsControl s t) (g : KeepsControl t u) : KeepsControl s u := by
  obtain ⟨⟨status, fault, cfg⟩, memory⟩ := h
  obtain ⟨⟨status', fault', cfg'⟩, memory'⟩ := g
  exact ⟨⟨status'.trans status, fault'.trans fault, cfg'.trans cfg⟩, memory' ∘ memory⟩

theorem keepsControl_skipIf (s : State) (cond : Bool) : KeepsControl s (s.skipIf cond) := by
  rw [State.skipIf_eq]
  exact .of_mem_eq ⟨rfl, rfl, rfl⟩ rfl

theorem keepsControl_incIndex (s : State) (n : Nat) : KeepsControl s (s.incIndex n) := by
  rw [State.incIndex_eq]
  exact .of_mem_eq ⟨rfl, rfl, rfl⟩ rfl

theorem keepsControl_loadRange (s : State) (n : Nat) : KeepsControl s (s.loadRange n) := by
  rw [State.loadRange_eq]
  exact .of_mem_eq ⟨rfl, rfl, rfl⟩ rfl

theorem keepsControl_storeRange (s : State) (n : Nat) : KeepsControl s (s.storeRange n) := by
  rw [State.storeRange_eq]
  exact ⟨⟨rfl, rfl, rfl⟩, s.storeRange_wf n⟩

theorem keepsControl_memWriteList (s : State) (a : Nat) (bs : List Byte) : KeepsControl s (s.memWriteList a bs) := by
  rw [State.memWriteList_eq]
  exact ⟨⟨rfl, rfl, rfl⟩, s.memWriteList_wf a bs⟩

/-- The states in which an instruction neither waits nor faults (R120, R122, R195). -/
def completesIn (s : State) : Instr → Prop
  | .ret => 0 < s.sp.val
  | .call _ => s.sp.val < stackDepth
  | .ldVxK _ => False
  | _ => True

/-- What exec can make of a state, with the guard of each case. -/
inductive ExecOutcome (s : State) : Instr → State → Prop
  | completes {i : Instr} {t : State} (guard : completesIn s i) (kept : KeepsControl s t) : ExecOutcome s i t
  | waits (x : RegIdx) : ExecOutcome s (.ldVxK x) (((s.setPc (s.pc - 2)).sampleKeys).setStatus (.awaitingKey x))
  | overflows (nnn : Addr) (full : s.sp.val = stackDepth) : ExecOutcome s (.call nnn) (s.faulted .stackOverflow)
  | underflows (empty : s.sp.val = 0) : ExecOutcome s .ret (s.faulted .stackUnderflow)

/-- RET pops or finds the stack empty (R120). -/
theorem execRet_outcome (s : State) : ∃ t, execRet s = .next t ∧ ExecOutcome s .ret t := by
  by_cases live : 0 < s.sp.val
  · exact ⟨_, dif_pos live, .completes live (.of_mem_eq ⟨rfl, rfl, rfl⟩ rfl)⟩
  · exact ⟨_, dif_neg live, .underflows (by omega)⟩

/-- CALL pushes or finds the stack full (R122). -/
theorem execCall_outcome (nnn : Addr) (s : State) :
    ∃ t, execCall nnn s = .next t ∧ ExecOutcome s (.call nnn) t := by
  by_cases room : s.sp.val < stackDepth
  · exact ⟨_, dif_pos room, .completes room (.of_mem_eq ⟨rfl, rfl, rfl⟩ rfl)⟩
  · have := s.sp.isLt
    exact ⟨_, dif_neg room, .overflows nnn (by simp only [stackDepth] at *; omega)⟩

theorem execAddI_keepsControl (x : RegIdx) (s : State) : ∃ t, execAddI x s = .next t ∧ KeepsControl s t := by
  refine ⟨_, rfl, ?_⟩
  split <;> exact .of_mem_eq ⟨rfl, rfl, rfl⟩ rfl

/-- Every instruction answers a next state, which is one of the outcomes. -/
theorem exec_outcome (i : Instr) (s : State) : ∃ t, exec i s = .next t ∧ ExecOutcome s i t := by
  cases i with
  | ret => exact execRet_outcome s
  | call nnn => exact execCall_outcome nnn s
  | ldVxK x => exact ⟨_, rfl, .waits x⟩
  | seImm | sneImm | seReg | sneReg | skp | sknp => exact ⟨_, rfl, .completes trivial (keepsControl_skipIf s _)⟩
  | addI x =>
    obtain ⟨t, next, kept⟩ := execAddI_keepsControl x s
    exact ⟨t, next, .completes trivial kept⟩
  | ldB => exact ⟨_, rfl, .completes trivial (keepsControl_memWriteList s _ _)⟩
  | storeRegs =>
    exact ⟨_, rfl, .completes trivial ((keepsControl_storeRange s _).trans (keepsControl_incIndex _ _))⟩
  | loadRegs =>
    exact ⟨_, rfl, .completes trivial ((keepsControl_loadRange s _).trans (keepsControl_incIndex _ _))⟩
  | _ => exact ⟨_, rfl, .completes trivial (.of_mem_eq ⟨rfl, rfl, rfl⟩ rfl)⟩

theorem ExecOutcome.cfg {s t : State} {i : Instr} (h : ExecOutcome s i t) : t.cfg = s.cfg := by
  cases h with
  | completes _ kept => exact kept.control.2.2
  | waits | overflows | underflows => rfl

/-! ## What a STEP can do -/

/-- What a STEP can make of a state (R100): an instruction executed or an unknown word raised from Running, the two
polls of a key wait (R196), and nothing at all when Halted (R106). -/
inductive StepOutcome (s : State) : State → Prop
  | executes {i : Instr} {t : State} (status : s.status = .running) (decoded : decode s.fetchWord = .ok i)
      (next : exec i s.advance = .next t) (outcome : ExecOutcome s.advance i t) : StepOutcome s t
  | unknown (status : s.status = .running) (undecoded : decode s.fetchWord = .error (.unknownOpcode s.fetchWord)) :
      StepOutcome s (s.advance.faulted (.unknownOpcode s.fetchWord s.pc))
  | waitsOn {x : RegIdx} (status : s.status = .awaitingKey x) (noEdge : leastKey s.edges = none) :
      StepOutcome s s.sampleKeys
  | takesKey {x k : RegIdx} (status : s.status = .awaitingKey x) (edge : leastKey s.edges = some k) :
      StepOutcome s ((((s.sampleKeys).setV x (BitVec.ofNat 8 k.val)).advance).setStatus .running)
  | stays (status : s.status = .halted) : StepOutcome s s

/-- run_instruction executes what it decodes, or raises UnknownOpcode with the word it fetched (R103, R221). -/
theorem runInstruction_outcome (s : State) (running : s.status = .running) :
    ∃ t, runInstruction s = .next t ∧ StepOutcome s t := by
  cases decoded : decode s.fetchWord with
  | ok i =>
    obtain ⟨t, next, outcome⟩ := exec_outcome i s.advance
    exact ⟨t, by simp [runInstruction, decoded, next], .executes running decoded next outcome⟩
  | error e =>
    obtain rfl := decode_error _ _ decoded
    exact ⟨_, by simp only [runInstruction, decoded, raise], .unknown running decoded⟩

/-- A poll refreshes KEY_PREV and, when a key went down, ends the wait (R196). -/
theorem pollKeys_outcome (s : State) (x : RegIdx) (waiting : s.status = .awaitingKey x) :
    ∃ t, pollKeys x s = .next t ∧ StepOutcome s t := by
  cases edge : leastKey s.edges with
  | none => exact ⟨_, by simp only [pollKeys, edge], .waitsOn waiting edge⟩
  | some k => exact ⟨_, by simp only [pollKeys, edge], .takesKey waiting edge⟩

/-- Every STEP answers a next state, which is one of the outcomes. -/
theorem step_outcome (s : State) : ∃ t, step s = .next t ∧ StepOutcome s t := by
  cases status : s.status with
  | running => rw [step_running s status]; exact runInstruction_outcome s status
  | awaitingKey x => rw [step_waiting s x status]; exact pollKeys_outcome s x status
  | halted => exact ⟨s, by simp [step, stepByStatus, status], .stays status⟩

theorem StepOutcome.cfg {s t : State} (h : StepOutcome s t) : t.cfg = s.cfg := by
  cases h with
  | executes _ _ _ outcome => exact outcome.cfg
  | unknown | waitsOn | takesKey | stays => rfl

/-- The STEP operation leaves a state that STEP can make. -/
theorem hostStep_outcome (s : State) : StepOutcome s s.hostStep.1 := by
  obtain ⟨t, next, outcome⟩ := step_outcome s
  simpa [State.hostStep, next] using outcome

/-! ## The invariant -/

/-- While the core is not Halted no fault is recorded (R33). -/
theorem State.Inv.fault_eq_none {s : State} (h : s.Inv) (alive : s.status ≠ .halted) : s.fault = none := by
  by_contra recorded
  exact alive (h.fault.1.mp recorded)

/-- A running core without a fault meets the invariant as soon as its memory is canonical. -/
theorem inv_of_running {t : State} (status : t.status = .running) (fault : t.fault = none)
    (memory : Memory.wf t.cfg t.mem) : t.Inv where
  memory := memory
  fault := ⟨by simp [status, fault], by simp [fault]⟩
  wait := by simp [State.waitAgrees, status]

/-- A taken fault that explains its state keeps the invariant (R226). -/
theorem inv_faulted {s : State} {f : FaultRecord} (memory : Memory.wf s.cfg s.mem)
    (explained : f.explains (s.faulted f)) : (s.faulted f).Inv where
  memory := memory
  fault := ⟨by simp, fun g hg => by obtain rfl : f = g := Option.some.inj hg; exact explained⟩
  wait := by simp [State.waitAgrees]

/-- The wait of LD Vx,K stands at the instruction that began it: the advance is undone (R195). -/
theorem inv_waitEntry {s : State} {x : RegIdx} (memory : Memory.wf s.cfg s.mem) (fault : s.fault = none)
    (decoded : decode s.fetchWord = .ok (.ldVxK x)) :
    (((s.advance.setPc (s.advance.pc - 2)).sampleKeys).setStatus (.awaitingKey x)).Inv where
  memory := memory
  fault := ⟨by simp [fault], by simp [fault]⟩
  wait := fun y hy => by
    obtain rfl : x = y := Status.awaitingKey.inj hy
    have back : s.pc + 2 - 2 = s.pc := by bv_omega
    simpa [State.fetchWord, State.memReadWord, State.memRead, back] using decoded

theorem ExecOutcome.inv {s t : State} {i : Instr} (h : ExecOutcome s.advance i t) (inv : s.Inv)
    (running : s.status = .running) (decoded : decode s.fetchWord = .ok i) : t.Inv := by
  have fault := inv.fault_eq_none (by simp [running])
  cases h with
  | completes _ kept =>
    exact inv_of_running (kept.control.1.trans running) (kept.control.2.1.trans fault) (kept.memory inv.memory)
  | waits x => exact inv_waitEntry inv.memory fault decoded
  | overflows _ full => exact inv_faulted inv.memory full
  | underflows empty => exact inv_faulted inv.memory empty

/-- Every STEP keeps the invariant. -/
theorem StepOutcome.inv {s t : State} (h : StepOutcome s t) (inv : s.Inv) : t.Inv := by
  cases h with
  | executes status decoded _ outcome => exact outcome.inv inv status decoded
  | unknown _ undecoded => exact inv_faulted inv.memory ⟨undecoded, rfl⟩
  | waitsOn => exact ⟨inv.memory, inv.fault, inv.wait⟩
  | takesKey status => exact inv_of_running rfl (inv.fault_eq_none (by simp [status])) inv.memory
  | stays => exact inv

theorem resetWith_inv (c : Config) : (State.resetWith c).Inv :=
  inv_of_running rfl rfl (Memory.wf_nil c)

/-! ## LOAD -/

theorem load_tooLarge (s : State) {bytes : List Byte} (large : bytes.length > romCapacity) :
    (s.load bytes).1 = s := by
  simp only [State.load, if_pos large]

theorem load_fits (s : State) {bytes : List Byte} (fits : ¬bytes.length > romCapacity) :
    (s.load bytes).1 = (s.memWriteList programBase bytes).clearForLoad := by
  simp only [State.load, if_neg fits]

theorem load_cfg (s : State) (bytes : List Byte) : (s.load bytes).1.cfg = s.cfg := by
  by_cases large : bytes.length > romCapacity
  · rw [load_tooLarge s large]
  · rw [load_fits s large]
    exact (keepsControl_memWriteList s _ _).control.2.2

/-- LOAD leaves the core running over canonical memory, or refuses and leaves it alone (R251, R252). -/
theorem load_inv {s : State} (inv : s.Inv) (bytes : List Byte) : (s.load bytes).1.Inv := by
  by_cases large : bytes.length > romCapacity
  · rwa [load_tooLarge s large]
  · rw [load_fits s large]
    exact inv_of_running rfl rfl ((keepsControl_memWriteList s _ _).memory inv.memory)

/-! ## The operations of the host -/

theorem HostOp.apply_inv (s : State) (op : HostOp) (inv : s.Inv) : (op.apply s).1.Inv := by
  cases op with
  | reset c => exact inv_of_running rfl rfl (Memory.wf_nil c)
  | load bytes => exact load_inv inv bytes
  | step => exact (hostStep_outcome s).inv inv
  | tick | setKey | takeDirty => exact ⟨inv.memory, inv.fault, inv.wait⟩
  | frameBuffer | snapshot | soundActive => exact inv

theorem runOps_inv (ops : List HostOp) (s : State) (inv : s.Inv) : (runOps s ops).Inv := by
  induction ops generalizing s with
  | nil => exact inv
  | cons op ops ih => exact ih _ (op.apply_inv s inv)

/-- Settles O18: each operation keeps the invariant, so a schedule does, by induction on its operations. -/
theorem hostOpsKeepInv : Obligations.HostOpsKeepInv :=
  ⟨HostOp.apply_inv, fun ops => runOps_inv ops _ (resetWith_inv defaultConfig)⟩

/-- Settles O19: the configuration goes through STEP and LOAD unchanged, and the other operations do not touch it. -/
theorem configConstant : Obligations.ConfigConstant := by
  refine ⟨fun s op notReset => ?_, fun _ _ => rfl⟩
  cases op with
  | reset c => exact absurd rfl (notReset c)
  | load bytes => exact load_cfg s bytes
  | step => exact (hostStep_outcome s).cfg
  | tick | setKey | takeDirty | frameBuffer | snapshot | soundActive => rfl

end Sys2Proof.Machine

/-! # The state (10_state.md): the invariant, the host's reads and key levels, and what an instruction may change -/

namespace Sys2Proof.Machine

/-! ## The invariant -/

/-- Settles O16: the instance of `resetWith_inv` for the default configuration. -/
theorem invAtReset : Obligations.InvAtReset :=
  resetWith_inv defaultConfig

theorem StepOutcome.of_next {s t : State} (next : step s = .next t) : StepOutcome s t := by
  obtain ⟨u, next', outcome⟩ := step_outcome s
  obtain rfl : u = t := Host.Outcome.next.inj (next'.symm.trans next)
  exact outcome

/-- Settles O17: each outcome of a STEP keeps the invariant (`StepOutcome.inv`). -/
theorem stepKeepsInv : Obligations.StepKeepsInv :=
  fun _ _ inv next => (StepOutcome.of_next next).inv inv

/-! ## The host's key levels and reads (R41 to R45) -/

/-- Settles O24: the new level is that of `withKey`, and the operation writes KEY alone. -/
theorem setKey : Obligations.SetKey :=
  fun s k pressed => ⟨_, rfl, fun j => getLsbD_withKey s.key k j pressed, rfl⟩

theorem length_frameView (s : State) : s.frameView.length = 2048 := by
  simp [State.frameView, fbWidth, fbHeight]

/-- The frame is returned row-major (R42). -/
theorem getElem?_frameView (s : State) {x y : Nat} (hx : x < 64) (hy : y < 32) :
    s.frameView[y * 64 + x]? = some (s.pixel x y) := by
  have inside : y * 64 + x < fbWidth * fbHeight := by simp only [fbWidth, fbHeight]; omega
  have column : (y * 64 + x) % fbWidth = x := by simp only [fbWidth]; omega
  have row : (y * 64 + x) / fbWidth = y := by simp only [fbWidth]; omega
  rw [State.frameView, List.getElem?_map, List.getElem?_range inside, Option.map_some, column, row]

/-- Settles O25: the frame's length and order are the two lemmas above; the other reads return fields as they stand. -/
theorem hostReads : Obligations.HostReads :=
  fun s => ⟨⟨_, rfl, length_frameView s, fun _ _ hx hy => getElem?_frameView s hx hy⟩, rfl,
    ⟨_, rfl, fun _ => rfl, rfl, rfl, rfl, rfl, rfl⟩, ⟨_, rfl, bne_iff_ne⟩⟩

/-! ## What an instruction may change (R20 to R33) -/

theorem State.getV_setV_of_ne (s : State) {x r : RegIdx} (b : Byte) (h : r ≠ x) : (s.setV x b).getV r = s.getV r := by
  rw [State.getV_setV, if_neg h]

/-- What an instruction can write. Those that act on memory, registers, I and PC alone share the case `computes`, which
holds the frame of each of these; every other case is one instruction with its next state. -/
inductive ExecFootprint (s : State) : Instr → State → Prop
  | computes {i : Instr} {mem : Memory} {v : Vector Byte 16} {index pc : Addr}
      (regs : ∀ r : RegIdx, ¬mayWriteReg s.cfg r i → v[r.val] = s.getV r) (index_eq : ¬mayWriteI s.cfg i → index = s.i)
      (pc_eq : ¬mayWritePc i → pc = s.pc) : ExecFootprint s i { s with mem := mem, v := v, i := index, pc := pc }
  | clears : ExecFootprint s .cls (s.setScreen blankFrame)
  | plots (x y : RegIdx) (n : Fin 16) (fb : FrameBuffer) (flag : Byte) :
      ExecFootprint s (.drw x y n) ((s.setScreen fb).setV vf flag)
  | drawsByte (x : RegIdx) (kk b : Byte) : ExecFootprint s (.rnd x kk) ((s.setV x b).countDraw)
  | setsDelay (x : RegIdx) (b : Byte) : ExecFootprint s (.ldDTVx x) (s.setDT b)
  | setsSound (x : RegIdx) (b : Byte) : ExecFootprint s (.ldSTVx x) (s.setST b)
  | waits (x : RegIdx) : ExecFootprint s (.ldVxK x) (((s.setPc (s.pc - 2)).sampleKeys).setStatus (.awaitingKey x))
  | pushes (nnn : Addr) (room : s.sp.val < stackDepth) : ExecFootprint s (.call nnn) ((s.push s.pc room).setPc nnn)
  | overflows (nnn : Addr) (full : ¬s.sp.val < stackDepth) : ExecFootprint s (.call nnn) (s.faulted .stackOverflow)
  | pops (live : 0 < s.sp.val) : ExecFootprint s .ret (s.popPc live)
  | underflows (empty : ¬0 < s.sp.val) : ExecFootprint s .ret (s.faulted .stackUnderflow)

section
variable {s : State} {i : Instr}

theorem footprint_setV {x : RegIdx} (b : Byte) (may : mayWriteReg s.cfg x i) : ExecFootprint s i (s.setV x b) :=
  .computes (fun _ mayNot => s.getV_setV_of_ne b fun e => mayNot (e ▸ may)) (fun _ => rfl) (fun _ => rfl)

theorem footprint_writeResult {x : RegIdx} (b f : Byte) (may : mayWriteReg s.cfg x i)
    (mayFlag : mayWriteReg s.cfg vf i) : ExecFootprint s i (s.writeResult x b f) := by
  refine .computes (fun r mayNot => ?_) (fun _ => rfl) (fun _ => rfl)
  calc (s.writeResult x b f).getV r
    _ = (s.setV x b).getV r := State.getV_setV_of_ne _ f fun e => mayNot (e ▸ mayFlag)
    _ = s.getV r := s.getV_setV_of_ne b fun e => mayNot (e ▸ may)

theorem footprint_setI (a : Addr) (may : mayWriteI s.cfg i) : ExecFootprint s i (s.setI a) :=
  .computes (fun _ _ => rfl) (fun mayNot => absurd may mayNot) (fun _ => rfl)

theorem footprint_setPc (a : Addr) (may : mayWritePc i) : ExecFootprint s i (s.setPc a) :=
  .computes (fun _ _ => rfl) (fun _ => rfl) (fun mayNot => absurd may mayNot)

theorem footprint_skipIf (cond : Bool) (may : mayWritePc i) : ExecFootprint s i (s.skipIf cond) := by
  rw [State.skipIf_eq]
  exact .computes (fun _ _ => rfl) (fun _ => rfl) (fun mayNot => absurd may mayNot)

end

/-- ADD I,Vx writes VF under Q_ADDI_VF alone (R161). -/
theorem execAddI_footprint (x : RegIdx) (s : State) :
    ∃ t, execAddI x s = .next t ∧ ExecFootprint s (.addI x) t := by
  refine ⟨_, rfl, ?_⟩
  split
  · next flagged =>
    exact .computes (fun _ mayNot => State.getV_setV_of_ne _ _ fun e => mayNot ⟨flagged, e⟩)
      (fun mayNot => absurd trivial mayNot) (fun _ => rfl)
  · exact footprint_setI _ trivial

theorem execLdB_footprint (x : RegIdx) (s : State) :
    ∃ t, execLdB x s = .next t ∧ ExecFootprint s (.ldB x) t := by
  refine ⟨_, rfl, ?_⟩
  rw [State.memWriteList_eq]
  exact .computes (fun _ _ => rfl) (fun _ => rfl) (fun _ => rfl)

/-- LD [I],Vx writes I under Q_MEM_INC_I alone (R164). -/
theorem execStoreRegs_footprint (x : RegIdx) (s : State) :
    ∃ t, execStoreRegs x s = .next t ∧ ExecFootprint s (.storeRegs x) t := by
  refine ⟨_, rfl, ?_⟩
  rw [State.incIndex_eq, State.storeRange_eq]
  exact .computes (fun _ _ => rfl) (fun mayNot => if_neg mayNot) (fun _ => rfl)

/-- LD Vx,[I] writes V[0] to V[x], and I under Q_MEM_INC_I alone (R165). -/
theorem execLoadRegs_footprint (x : RegIdx) (s : State) :
    ∃ t, execLoadRegs x s = .next t ∧ ExecFootprint s (.loadRegs x) t := by
  refine ⟨_, rfl, ?_⟩
  rw [State.incIndex_eq, State.loadRange_eq]
  refine .computes (fun r mayNot => ?_) (fun mayNot => if_neg mayNot) (fun _ => rfl)
  have above : ¬r.val < x.val + 1 := fun below => mayNot (Nat.le_of_lt_succ below)
  exact (s.getV_loadRange _ r x.isLt).trans (if_neg above)

theorem execCall_footprint (nnn : Addr) (s : State) :
    ∃ t, execCall nnn s = .next t ∧ ExecFootprint s (.call nnn) t := by
  by_cases room : s.sp.val < stackDepth
  · exact ⟨_, dif_pos room, .pushes nnn room⟩
  · exact ⟨_, dif_neg room, .overflows nnn room⟩

theorem execRet_footprint (s : State) : ∃ t, execRet s = .next t ∧ ExecFootprint s .ret t := by
  by_cases live : 0 < s.sp.val
  · exact ⟨_, dif_pos live, .pops live⟩
  · exact ⟨_, dif_neg live, .underflows live⟩

/-- Every instruction answers a next state within its footprint. -/
theorem exec_footprint (i : Instr) (s : State) : ∃ t, exec i s = .next t ∧ ExecFootprint s i t := by
  cases i with
  | cls => exact ⟨_, rfl, .clears⟩
  | ret => exact execRet_footprint s
  | call nnn => exact execCall_footprint nnn s
  | jp | jpV0 => exact ⟨_, rfl, footprint_setPc _ trivial⟩
  | seImm | sneImm | seReg | sneReg | skp | sknp => exact ⟨_, rfl, footprint_skipIf _ trivial⟩
  | ldImm | addImm | ldReg | orReg | andReg | xorReg | ldVxDT => exact ⟨_, rfl, footprint_setV _ rfl⟩
  | addReg | subReg | shr | subnReg | shl => exact ⟨_, rfl, footprint_writeResult _ _ (.inl rfl) (.inr rfl)⟩
  | ldI | ldF => exact ⟨_, rfl, footprint_setI _ trivial⟩
  | rnd x kk => exact ⟨_, rfl, .drawsByte x kk _⟩
  | drw x y n => exact ⟨_, rfl, .plots x y n _ _⟩
  | ldVxK x => exact ⟨_, rfl, .waits x⟩
  | ldDTVx x => exact ⟨_, rfl, .setsDelay x _⟩
  | ldSTVx x => exact ⟨_, rfl, .setsSound x _⟩
  | addI x => exact execAddI_footprint x s
  | ldB x => exact execLdB_footprint x s
  | storeRegs x => exact execStoreRegs_footprint x s
  | loadRegs x => exact execLoadRegs_footprint x s

theorem ExecFootprint.of_next {i : Instr} {s t : State} (next : exec i s = .next t) : ExecFootprint s i t := by
  obtain ⟨u, next', footprint⟩ := exec_footprint i s
  obtain rfl : u = t := Host.Outcome.next.inj (next'.symm.trans next)
  exact footprint

/-- Settles O28: beside the computing instructions only DRW and RND write a register, VF and V[x]. -/
theorem registerFrame : Obligations.RegisterFrame := by
  intro i s t r next mayNot
  cases ExecFootprint.of_next next with
  | computes regs => exact regs r mayNot
  | plots => exact State.getV_setV_of_ne _ _ mayNot
  | drawsByte => exact State.getV_setV_of_ne _ _ mayNot
  | _ => rfl

/-- Settles O29: beside the computing instructions only CALL, RET and LD Vx,K write PC, and none writes I. -/
theorem indexAndPcFrame : Obligations.IndexAndPcFrame := by
  intro i s t next
  cases ExecFootprint.of_next next with
  | computes _ index_eq pc_eq => exact ⟨index_eq, pc_eq⟩
  | pushes | pops | waits => exact ⟨fun _ => rfl, fun mayNot => absurd trivial mayNot⟩
  | _ => exact ⟨fun _ => rfl, fun _ => rfl⟩

/-- Settles O31: a CALL with room writes the entry at SP; a RET moves SP alone; a stack fault touches neither. -/
theorem stackFrame : Obligations.StackFrame := by
  intro i s t next
  cases ExecFootprint.of_next next with
  | pushes nnn room =>
    exact ⟨fun notCall => absurd rfl (notCall nnn), fun notCall => absurd rfl (notCall nnn),
      fun j other => Vector.getElem_set_ne room j.isLt other.symm⟩
  | pops => exact ⟨fun _ => rfl, fun _ notRet => absurd rfl notRet, fun _ _ => rfl⟩
  | _ => exact ⟨fun _ => rfl, fun _ _ => rfl, fun _ _ => rfl⟩

/-- The screen of a state with the same FB and DIRTY. -/
theorem sameScreen_of_eq {s t : State} (fb : t.fb = s.fb) (dirty : t.dirty = s.dirty) : SameScreen s t :=
  ⟨fun _ _ => by rw [State.pixel, State.pixel, fb], dirty⟩

/-- Settles O32: the only footprints on the devices are those of the two timer loads, CLS, DRW and LD Vx,K. -/
theorem deviceFrame : Obligations.DeviceFrame := by
  intro i s t next
  cases ExecFootprint.of_next next with
  | setsDelay x =>
    exact ⟨fun other => absurd rfl (other x), fun _ => rfl, fun _ _ => sameScreen_of_eq rfl rfl, rfl, fun _ => rfl⟩
  | setsSound x =>
    exact ⟨fun _ => rfl, fun other => absurd rfl (other x), fun _ _ => sameScreen_of_eq rfl rfl, rfl, fun _ => rfl⟩
  | clears => exact ⟨fun _ => rfl, fun _ => rfl, fun notCls => absurd rfl notCls, rfl, fun _ => rfl⟩
  | plots x y n =>
    exact ⟨fun _ => rfl, fun _ => rfl, fun _ notDrw => absurd rfl (notDrw x y n), rfl, fun _ => rfl⟩
  | waits x =>
    exact ⟨fun _ => rfl, fun _ => rfl, fun _ _ => sameScreen_of_eq rfl rfl, rfl, fun other => absurd rfl (other x)⟩
  | _ => exact ⟨fun _ => rfl, fun _ => rfl, fun _ _ => sameScreen_of_eq rfl rfl, rfl, fun _ => rfl⟩

/-- Settles O33: STATUS changes in the key wait and the two stack faults, FAULT in the faults, the draw count in RND. -/
theorem controlFrame : Obligations.ControlFrame := by
  intro i s t next
  cases ExecFootprint.of_next next with
  | waits x => exact ⟨rfl, fun notWait => absurd rfl (notWait x), fun _ _ => rfl, fun _ => rfl⟩
  | overflows nnn full =>
    exact ⟨rfl, fun _ room => absurd (room nnn rfl) full, fun room => absurd (room nnn rfl) full, fun _ => rfl⟩
  | underflows empty =>
    exact ⟨rfl, fun _ _ live => absurd (live rfl) empty, fun _ live => absurd (live rfl) empty, fun _ => rfl⟩
  | drawsByte x kk => exact ⟨rfl, fun _ _ _ => rfl, fun _ _ => rfl, fun notRnd => absurd rfl (notRnd x kk)⟩
  | _ => exact ⟨rfl, fun _ _ _ => rfl, fun _ _ => rfl, fun _ => rfl⟩

/-! ## STEP, case by case -/

section
variable {s : State}

theorem runInstruction_of_ok {i : Instr} (decoded : decode s.fetchWord = .ok i) :
    runInstruction s = exec i s.advance := by
  simp only [runInstruction, decoded]

theorem runInstruction_of_error {w : Word} (undecoded : decode s.fetchWord = .error (.unknownOpcode w)) :
    runInstruction s = .next (s.advance.faulted (.unknownOpcode w s.pc)) := by
  simp only [runInstruction, undecoded, raise]

theorem pollKeys_of_none (x : RegIdx) (noEdge : leastKey s.edges = none) : pollKeys x s = .next s.sampleKeys := by
  simp only [pollKeys, noEdge]

theorem pollKeys_of_some (x : RegIdx) {k : RegIdx} (edge : leastKey s.edges = some k) :
    pollKeys x s = .next ((((s.sampleKeys).setV x (BitVec.ofNat 8 k.val)).advance).setStatus .running) := by
  simp only [pollKeys, edge]

theorem step_halted (halted : s.status = .halted) : step s = .next s := by
  simp only [step, stepByStatus, halted]

end

/-! ## No instruction reads ST or DIRTY (R27, R29, R192) -/

/-- The state with other values of ST and DIRTY. -/
def State.withSound (s : State) (b : Byte) (d : Bool) : State :=
  { s with st := b, dirty := d }

section
variable (s : State) (b : Byte) (d : Bool)

theorem State.storeRange_withSound (n : Nat) :
    (s.withSound b d).storeRange n = (s.storeRange n).withSound b d := by
  induction n with
  | zero => rfl
  | succ n ih => rw [State.storeRange, ih]; rfl

theorem State.loadRange_withSound (n : Nat) : (s.withSound b d).loadRange n = (s.loadRange n).withSound b d := by
  induction n with
  | zero => rfl
  | succ n ih => rw [State.loadRange, ih]; rfl

end

/-- t comes from s and u from s.withSound b d: they differ in ST and DIRTY at most, and each of the two is written
alike or as it was. -/
structure SteppedAlike (b : Byte) (d : Bool) (s t u : State) : Prop where
  rest : { u with st := t.st, dirty := t.dirty } = t
  sound : u.st = t.st ∨ (u.st = b ∧ t.st = s.st)
  dirty : u.dirty = t.dirty ∨ (u.dirty = d ∧ t.dirty = s.dirty)

/-- From s and from s.withSound b d, f answers states that differ in ST and DIRTY at most. -/
def BlindToSound (f : State → Result) (s : State) (b : Byte) (d : Bool) : Prop :=
  ∃ t u, f s = .next t ∧ f (s.withSound b d) = .next u ∧ SteppedAlike b d s t u

section
variable {s t : State} {b : Byte} {d : Bool}

/-- What leaves ST and DIRTY alone, whatever they hold. -/
theorem steppedAlike_untouched (sound : t.st = s.st) (dirty : t.dirty = s.dirty) :
    SteppedAlike b d s t (t.withSound b d) :=
  ⟨rfl, .inr ⟨rfl, sound⟩, .inr ⟨rfl, dirty⟩⟩

/-- A write of the screen sets DIRTY (R170, R175). -/
theorem steppedAlike_dirtied (sound : t.st = s.st) (dirty : t.dirty = true) :
    SteppedAlike b d s t (t.withSound b true) :=
  ⟨rfl, .inr ⟨rfl, sound⟩, .inl dirty.symm⟩

/-- The write of ST (R192). -/
theorem steppedAlike_setST (c : Byte) : SteppedAlike b d s (s.setST c) ((s.withSound b d).setST c) :=
  ⟨rfl, .inl rfl, .inr ⟨rfl, rfl⟩⟩

theorem steppedAlike_skipIf (cond : Bool) :
    SteppedAlike b d s (s.skipIf cond) ((s.withSound b d).skipIf cond) := by
  rw [State.skipIf_eq, State.skipIf_eq]
  exact steppedAlike_untouched rfl rfl

theorem steppedAlike_incIndex (n : Nat) (sound : t.st = s.st) (dirty : t.dirty = s.dirty) :
    SteppedAlike b d s (t.incIndex n) ((t.withSound b d).incIndex n) := by
  rw [State.incIndex_eq, State.incIndex_eq]
  exact steppedAlike_untouched sound dirty

end

section
variable (s : State) (b : Byte) (d : Bool)

theorem execRet_blindToSound : BlindToSound execRet s b d := by
  by_cases live : 0 < s.sp.val
  · exact ⟨_, _, dif_pos live, dif_pos live, steppedAlike_untouched rfl rfl⟩
  · exact ⟨_, _, dif_neg live, dif_neg live, steppedAlike_untouched rfl rfl⟩

theorem execCall_blindToSound (nnn : Addr) : BlindToSound (execCall nnn) s b d := by
  by_cases room : s.sp.val < stackDepth
  · exact ⟨_, _, dif_pos room, dif_pos room, steppedAlike_untouched rfl rfl⟩
  · exact ⟨_, _, dif_neg room, dif_neg room, steppedAlike_untouched rfl rfl⟩

theorem execAddI_blindToSound (x : RegIdx) : BlindToSound (execAddI x) s b d := by
  by_cases flagged : s.cfg.qAddIVF = true
  · exact ⟨_, _, congrArg Host.Outcome.next (if_pos flagged), congrArg Host.Outcome.next (if_pos flagged),
      steppedAlike_untouched rfl rfl⟩
  · exact ⟨_, _, congrArg Host.Outcome.next (if_neg flagged), congrArg Host.Outcome.next (if_neg flagged),
      steppedAlike_untouched rfl rfl⟩

theorem execStoreRegs_blindToSound (x : RegIdx) : BlindToSound (execStoreRegs x) s b d := by
  refine ⟨_, _, rfl, rfl, ?_⟩
  rw [State.storeRange_withSound]
  exact steppedAlike_incIndex _ (by rw [State.storeRange_eq]) (by rw [State.storeRange_eq])

theorem execLoadRegs_blindToSound (x : RegIdx) : BlindToSound (execLoadRegs x) s b d := by
  refine ⟨_, _, rfl, rfl, ?_⟩
  rw [State.loadRange_withSound]
  exact steppedAlike_incIndex _ (by rw [State.loadRange_eq]) (by rw [State.loadRange_eq])

theorem exec_blindToSound (i : Instr) : BlindToSound (exec i) s b d := by
  cases i with
  | ret => exact execRet_blindToSound s b d
  | call nnn => exact execCall_blindToSound s b d nnn
  | cls | drw => exact ⟨_, _, rfl, rfl, steppedAlike_dirtied rfl rfl⟩
  | ldSTVx => exact ⟨_, _, rfl, rfl, steppedAlike_setST _⟩
  | seImm | sneImm | seReg | sneReg | skp | sknp => exact ⟨_, _, rfl, rfl, steppedAlike_skipIf _⟩
  | addI x => exact execAddI_blindToSound s b d x
  | storeRegs x => exact execStoreRegs_blindToSound s b d x
  | loadRegs x => exact execLoadRegs_blindToSound s b d x
  | _ => exact ⟨_, _, rfl, rfl, steppedAlike_untouched rfl rfl⟩

/-- The two states fetch one word, which is executed, or raised as unknown (R103, R221). -/
theorem runInstruction_blindToSound : BlindToSound runInstruction s b d := by
  cases decoded : decode s.fetchWord with
  | ok i =>
    obtain ⟨t, u, next, next', rest, sound, dirty⟩ := exec_blindToSound s.advance b d i
    exact ⟨t, u, (runInstruction_of_ok decoded).trans next,
      (runInstruction_of_ok (s := s.withSound b d) decoded).trans next', rest, sound, dirty⟩
  | error e =>
    obtain ⟨w⟩ := e
    exact ⟨_, _, runInstruction_of_error decoded, runInstruction_of_error (s := s.withSound b d) decoded,
      steppedAlike_untouched rfl rfl⟩

/-- The two states see the same edges (R196). -/
theorem pollKeys_blindToSound (x : RegIdx) : BlindToSound (pollKeys x) s b d := by
  cases edge : leastKey s.edges with
  | none =>
    exact ⟨_, _, pollKeys_of_none x edge, pollKeys_of_none (s := s.withSound b d) x edge,
      steppedAlike_untouched rfl rfl⟩
  | some k =>
    exact ⟨_, _, pollKeys_of_some x edge, pollKeys_of_some (s := s.withSound b d) x edge,
      steppedAlike_untouched rfl rfl⟩

theorem step_blindToSound : BlindToSound step s b d := by
  cases status : s.status with
  | running =>
    rw [BlindToSound, step_running s status, step_running (s.withSound b d) status]
    exact runInstruction_blindToSound s b d
  | awaitingKey x =>
    rw [BlindToSound, step_waiting s x status, step_waiting (s.withSound b d) x status]
    exact pollKeys_blindToSound s b d x
  | halted =>
    exact ⟨_, _, step_halted status, step_halted (s := s.withSound b d) status, steppedAlike_untouched rfl rfl⟩

end

/-- Settles O34: the second state is `s.withSound b d`, and STEP is blind to what it changes. -/
theorem soundAndDirtyUnread : Obligations.SoundAndDirtyUnread := by
  intro s t b d next
  obtain ⟨t', u, next', nextSound, rest, sound, dirty⟩ := step_blindToSound s b d
  obtain rfl : t' = t := Host.Outcome.next.inj (next'.symm.trans next)
  exact ⟨u, nextSound, rest, sound, dirty⟩

end Sys2Proof.Machine

/-! # Memory (20_memory.md): every STEP answers, the frame of memory, and a stored word fetched -/

namespace Sys2Proof.Machine

/-- Settles O12: `step_outcome` without the outcome's case. -/
theorem stepAnswers : Obligations.StepAnswers := by
  intro s
  obtain ⟨t, next, _⟩ := step_outcome s
  exact ⟨t, next⟩

/-! ## What a read returns after the shared operations -/

@[simp] theorem State.memRead_skipIf (s : State) (cond : Bool) (k : Nat) :
    (s.skipIf cond).memRead k = s.memRead k := by
  rw [State.skipIf_eq]; rfl

@[simp] theorem State.memRead_incIndex (s : State) (n k : Nat) : (s.incIndex n).memRead k = s.memRead k := by
  rw [State.incIndex_eq]; rfl

@[simp] theorem State.memRead_loadRange (s : State) (n k : Nat) : (s.loadRange n).memRead k = s.memRead k := by
  rw [State.loadRange_eq]; rfl

/-! ## The frame of memory (R63, R76) -/

section
variable {s t : State}

/-- Neither a CALL nor its fault writes memory (R122). -/
theorem sameMemory_of_execCall {nnn : Addr} (next : execCall nnn s = .next t) : SameMemory s t := by
  rw [execCall] at next
  split at next <;> obtain rfl := Host.Outcome.next.inj next <;> exact fun _ => rfl

/-- Neither a RET nor its fault writes memory (R120). -/
theorem sameMemory_of_execRet (next : execRet s = .next t) : SameMemory s t := by
  rw [execRet] at next
  split at next <;> obtain rfl := Host.Outcome.next.inj next <;> exact fun _ => rfl

/-- ADD I,Vx writes no memory, in either setting of Q_ADDI_VF (R161). -/
theorem sameMemory_of_execAddI {x : RegIdx} (next : execAddI x s = .next t) : SameMemory s t := by
  obtain rfl := Host.Outcome.next.inj next
  split <;> exact fun _ => rfl

/-- Only LD B,Vx and LD [I],Vx write memory (R76). -/
theorem exec_sameMemory {i : Instr} (notDigits : ∀ x, i ≠ .ldB x) (notStore : ∀ x, i ≠ .storeRegs x)
    (next : exec i s = .next t) : SameMemory s t := by
  cases i with
  | ldB x => exact absurd rfl (notDigits x)
  | storeRegs x => exact absurd rfl (notStore x)
  | call => exact sameMemory_of_execCall next
  | ret => exact sameMemory_of_execRet next
  | addI => exact sameMemory_of_execAddI next
  | seImm | sneImm | seReg | sneReg | skp | sknp =>
    obtain rfl := Host.Outcome.next.inj next
    exact s.memRead_skipIf _
  | loadRegs x =>
    obtain rfl := Host.Outcome.next.inj next
    exact fun a => by rw [State.memRead_incIndex, State.memRead_loadRange]
  | _ =>
    obtain rfl := Host.Outcome.next.inj next
    exact fun _ => rfl

end

/-- Settles O30: a list write and a register store leave the addresses outside their ranges, and no other instruction
writes memory. -/
theorem memoryFrame : Obligations.MemoryFrame := by
  intro i s t a next outsideDigits outsideStore
  cases i with
  | ldB x =>
    obtain rfl := Host.Outcome.next.inj next
    exact s.memRead_memWriteList_other _ a _ (outsideDigits x rfl)
  | storeRegs x =>
    obtain rfl := Host.Outcome.next.inj next
    rw [State.memRead_incIndex]
    exact s.memRead_storeRange_other _ a (outsideStore x rfl)
  | _ => exact exec_sameMemory (by simp) (by simp) next a

/-! ## A stored word fetched (R64, R74) -/

/-- After LD [I],Vx register r up to x stands at I + r (R164). -/
theorem memRead_storeRegs_at {s t : State} {x r : RegIdx} (next : exec (.storeRegs x) s = .next t) (stored : r ≤ x) :
    t.memRead (s.i.toNat + r.val) = s.getV r := by
  obtain rfl := Host.Outcome.next.inj next
  rw [State.memRead_incIndex, s.memRead_storeRange_at _ r.val (Nat.lt_succ_of_le stored) x.isLt,
    ← (regOf_eq r r.isLt).mpr rfl]

/-- Settles O53: PC still points at I, where the store put V[0] and V[1]. -/
theorem storeThenFetch : Obligations.StoreThenFetch := by
  intro s t x pairStored next atPc
  have pc : t.pc = s.pc := (indexAndPcFrame _ s t next).2 id
  have high : t.memRead s.pc.toNat = s.getV 0 := atPc ▸ memRead_storeRegs_at next (Fin.zero_le x)
  have low : t.memRead (s.pc.toNat + 1) = s.getV 1 := atPc ▸ memRead_storeRegs_at next pairStored
  rw [State.fetchWord, State.memReadWord, pc, high, low]

end Sys2Proof.Machine

/-! # The encoding (30_encoding.md): decode against the encoder, the opcode table and the words of no instruction -/

namespace Sys2Proof

/-! ## Decode of the encoder's word (R82, R84) -/

/-- 8xy6 is SHR Vx whatever y is (R93). -/
theorem decode_shr (x y : RegIdx) : decode (formatXYN 0x8 x y 0x6) = .ok (.shr x) := by
  simp [decode, decodeAlu]

/-- 8xyE is SHL Vx whatever y is (R93). -/
theorem decode_shl (x y : RegIdx) : decode (formatXYN 0x8 x y 0xE) = .ok (.shl x) := by
  simp [decode, decodeAlu]

/-- Settles O1: the fields of a format are its parts, and each family tells its instructions apart by them. -/
theorem decodeOfEncode : Obligations.DecodeOfEncode := by
  intro i
  cases i with
  | cls | ret => rfl
  | jp | call | ldI | jpV0 => simp [encode, decode]
  | seImm | sneImm | ldImm | addImm | rnd => simp [encode, decode]
  | drw => simp [encode, decode]
  | seReg | sneReg => simp [encode, decode, requireNZero]
  | ldReg | orReg | andReg | xorReg | addReg | subReg | subnReg => simp [encode, decode, decodeAlu]
  | shr x => exact decode_shr x 0
  | shl x => exact decode_shl x 0
  | skp | sknp => simp [encode, decode, decodeKeys]
  | ldVxDT | ldVxK | ldDTVx | ldSTVx | addI | ldF | ldB | storeRegs | loadRegs => simp [encode, decode, decodeMisc]

/-- Settles O5: the four words are the encoder's (R92). -/
theorem sourceWords : Obligations.SourceWords :=
  ⟨decodeOfEncode (.ldImm 0xA 0x3C), decodeOfEncode (.ldI 0x2F0), decodeOfEncode (.addReg 0 1),
    decodeOfEncode (.subReg 0 1)⟩

/-! ## The y nibble of a shift (R93) -/

theorem formatXYN_and_withoutY (op n : Nibble) (x y : RegIdx) :
    formatXYN op x y n &&& 0xFF0F = formatXYN op x 0 n := by
  have parts := Laws.and_parts (op ++ (BitVec.ofFin x : Nibble) ++ (BitVec.ofFin y : Nibble)) (0xFF#8 ++ 0x0#4) n 0xF#4
  rw [Laws.and_parts (op ++ (BitVec.ofFin x : Nibble)), show (0xFF#8 : Byte) = BitVec.allOnes 8 from rfl,
    show (0xF#4 : Nibble) = BitVec.allOnes 4 from rfl, BitVec.and_allOnes, BitVec.and_allOnes, BitVec.and_zero] at parts
  exact parts

/-- A word that decodes is the encoder's, but for the y nibble of a shift. -/
theorem decode_ok_and {w : Word} {i : Instr} (decoded : decode w = .ok i) :
    (encode i = w ∨ ∃ x, i = .shr x ∨ i = .shl x) ∧ w &&& 0xFF0F = encode i &&& 0xFF0F := by
  obtain rfl | ⟨x, y, ⟨rfl, rfl⟩ | ⟨rfl, rfl⟩⟩ := decode_ok w i decoded
  · exact ⟨.inl rfl, rfl⟩
  · exact ⟨.inr ⟨x, .inl rfl⟩, by rw [encode, formatXYN_and_withoutY, formatXYN_and_withoutY]⟩
  · exact ⟨.inr ⟨x, .inr rfl⟩, by rw [encode, formatXYN_and_withoutY, formatXYN_and_withoutY]⟩

/-- Settles O4: both words are the encoder's, or the instruction is a shift and they agree with it but for y. -/
theorem ignoredFields : Obligations.IgnoredFields := by
  refine ⟨fun x y => ⟨decode_shr x y, decode_shl x y⟩, fun w u i decodedW decodedU => ?_⟩
  obtain ⟨formW, sameW⟩ := decode_ok_and decodedW
  obtain ⟨formU, sameU⟩ := decode_ok_and decodedU
  have same : w &&& 0xFF0F = u &&& 0xFF0F := sameW.trans sameU.symm
  rcases formW with rfl | shift
  · rcases formU with rfl | shift
    · exact .inl rfl
    · exact .inr ⟨shift, same⟩
  · exact .inr ⟨shift, same⟩

/-! ## The words of no instruction (R86, R87) -/

theorem decodeZero_error_iff (w : Word) :
    decodeZero w = .error (.unknownOpcode w) ↔ fieldNNN w ≠ 0x0E0 ∧ fieldNNN w ≠ 0x0EE := by
  unfold decodeZero
  split <;> simp_all

/-- A nibble that is no minor code of family 8 is one of the seven unused ones. -/
theorem nibble_unusedAlu (n : Nibble) (h0 : n ≠ 0x0) (h1 : n ≠ 0x1) (h2 : n ≠ 0x2) (h3 : n ≠ 0x3) (h4 : n ≠ 0x4)
    (h5 : n ≠ 0x5) (h6 : n ≠ 0x6) (h7 : n ≠ 0x7) (hE : n ≠ 0xE) : n ∈ [0x8, 0x9, 0xA, 0xB, 0xC, 0xD, 0xF] := by
  simp only [List.mem_cons, List.not_mem_nil, or_false]
  bv_omega

theorem decodeAlu_error_iff (w : Word) :
    decodeAlu w = .error (.unknownOpcode w) ↔ fieldN w ∈ [0x8, 0x9, 0xA, 0xB, 0xC, 0xD, 0xF] := by
  unfold decodeAlu
  split
  case h_10 h0 h1 h2 h3 h4 h5 h6 h7 hE => exact iff_of_true rfl (nibble_unusedAlu _ h0 h1 h2 h3 h4 h5 h6 h7 hE)
  all_goals next minor => simp [minor]

theorem decodeKeys_error_iff (w : Word) :
    decodeKeys w = .error (.unknownOpcode w) ↔ fieldKK w ∉ [0x9E, 0xA1] := by
  unfold decodeKeys
  split <;> simp_all

theorem decodeMisc_error_iff (w : Word) :
    decodeMisc w = .error (.unknownOpcode w) ↔
      fieldKK w ∉ [0x07, 0x0A, 0x15, 0x18, 0x1E, 0x29, 0x33, 0x55, 0x65] := by
  unfold decodeMisc
  split <;> simp_all

theorem requireNZero_error_iff (w : Word) (i : Instr) :
    requireNZero w i = .error (.unknownOpcode w) ↔ fieldN w ≠ 0 := by
  unfold requireNZero
  split <;> simp_all

/-- Settles O3: the families with an unknown word are those of the lemmas above; the other arms answer an
instruction. -/
theorem unknownWords : Obligations.UnknownWords := by
  intro w
  unfold decode
  split
  case h_16 h0 h1 h2 h3 h4 h5 h6 h7 h8 h9 hA hB hC hD hE =>
    have op := nibble_last _ h0 h1 h2 h3 h4 h5 h6 h7 h8 h9 hA hB hC hD hE
    simp [op, decodeMisc_error_iff]
  case h_1 op => simp [op, decodeZero_error_iff]
  case h_6 op => simp [op, requireNZero_error_iff]
  case h_9 op => simp [op, decodeAlu_error_iff]
  case h_10 op => simp [op, requireNZero_error_iff]
  case h_15 op => simp [op, decodeKeys_error_iff]
  all_goals next op => simp [op]

/-! ## The opcode table (R84, R85) -/

/-- The rows are pairwise disjoint (R84): no word agrees with two of them on the bits both fix. -/
theorem opcodeRows_disjoint :
    ∀ r ∈ opcodeRows, ∀ q ∈ opcodeRows, r.pattern &&& q.mask = q.pattern &&& r.mask → r = q := by
  decide

theorem eq_of_fits {r q : OpcodeRow} {w : Word} (memR : r ∈ opcodeRows) (memQ : q ∈ opcodeRows)
    (fitsR : r.fits w = true) (fitsQ : q.fits w = true) : r = q := by
  refine opcodeRows_disjoint r memR q memQ ?_
  rw [← beq_iff_eq.mp fitsR, ← beq_iff_eq.mp fitsQ]
  ac_rfl

theorem row_mem_opcodeRows (i : Instr) : i.row ∈ opcodeRows := by
  cases i <;> simp [opcodeRows, rowsLow, rowsAlu, rowsMid, rowsF, Instr.row]

/-- Every row is an instruction's. -/
theorem exists_row_eq : ∀ r ∈ opcodeRows, ∃ i : Instr, i.row = r := by
  simp [opcodeRows, rowsLow, rowsAlu, rowsMid, rowsF]

/-- The bits of a word under a row are the pattern's wherever the mask fixes all of them. -/
theorem extract_of_fits {r : OpcodeRow} {w : Word} {start len : Nat} (fits : r.fits w = true)
    (fixed : r.mask.extractLsb' start len = BitVec.allOnes len) :
    w.extractLsb' start len = r.pattern.extractLsb' start len := by
  rw [← beq_iff_eq.mp fits, BitVec.extractLsb'_and, fixed, BitVec.and_allOnes]

/-- A word under an instruction's row decodes: op and the minor code that the row fixes decide its arm (R84). -/
theorem decode_of_row_fits {w : Word} (i : Instr) (fits : i.row.fits w = true) : ∃ j, decode w = .ok j := by
  cases i with simp only [Instr.row] at fits
  | cls | ret =>
    have op : fieldOp w = 0x0 := extract_of_fits fits rfl
    have nnn := extract_of_fits (start := 0) (len := 12) fits rfl
    exact ⟨_, by rw [decode, op, decodeZero, fieldNNN, nnn]; rfl⟩
  | seReg | sneReg =>
    have op := extract_of_fits (start := 12) (len := 4) fits rfl
    have n : fieldN w = 0x0 := extract_of_fits fits rfl
    exact ⟨_, by rw [decode, fieldOp, op]; exact if_pos n⟩
  | ldReg | orReg | andReg | xorReg | addReg | subReg | shr | subnReg | shl =>
    have op : fieldOp w = 0x8 := extract_of_fits fits rfl
    have n := extract_of_fits (start := 0) (len := 4) fits rfl
    exact ⟨_, by rw [decode, op, decodeAlu, fieldN, n]; rfl⟩
  | skp | sknp =>
    have op : fieldOp w = 0xE := extract_of_fits fits rfl
    have kk := extract_of_fits (start := 0) (len := 8) fits rfl
    exact ⟨_, by rw [decode, op, decodeKeys, fieldKK, kk]; rfl⟩
  | ldVxDT | ldVxK | ldDTVx | ldSTVx | addI | ldF | ldB | storeRegs | loadRegs =>
    have op : fieldOp w = 0xF := extract_of_fits fits rfl
    have kk := extract_of_fits (start := 0) (len := 8) fits rfl
    exact ⟨_, by rw [decode, op, decodeMisc, fieldKK, kk]; rfl⟩
  | _ =>
    have op := extract_of_fits (start := 12) (len := 4) fits rfl
    exact ⟨_, by rw [decode, fieldOp, op]; rfl⟩

/-- The encoder's word fits the instruction's row, for every instruction. -/
theorem row_fits_encode : ∀ i : Instr, i.row.fits (encode i) = true
  | .cls => Laws.OpcodeRow.cls
  | .ret => Laws.OpcodeRow.ret
  | .jp nnn => Laws.OpcodeRow.jp nnn
  | .call nnn => Laws.OpcodeRow.call nnn
  | .seImm x kk => Laws.OpcodeRow.seImm x kk
  | .sneImm x kk => Laws.OpcodeRow.sneImm x kk
  | .seReg x y => Laws.OpcodeRow.seReg x y
  | .ldImm x kk => Laws.OpcodeRow.ldImm x kk
  | .addImm x kk => Laws.OpcodeRow.addImm x kk
  | .ldReg x y => Laws.OpcodeRow.ldReg x y
  | .orReg x y => Laws.OpcodeRow.orReg x y
  | .andReg x y => Laws.OpcodeRow.andReg x y
  | .xorReg x y => Laws.OpcodeRow.xorReg x y
  | .addReg x y => Laws.OpcodeRow.addReg x y
  | .subReg x y => Laws.OpcodeRow.subReg x y
  | .shr x => Laws.OpcodeRow.shr x
  | .subnReg x y => Laws.OpcodeRow.subnReg x y
  | .shl x => Laws.OpcodeRow.shl x
  | .sneReg x y => Laws.OpcodeRow.sneReg x y
  | .ldI nnn => Laws.OpcodeRow.ldI nnn
  | .jpV0 nnn => Laws.OpcodeRow.jpV0 nnn
  | .rnd x kk => Laws.OpcodeRow.rnd x kk
  | .drw x y n => Laws.OpcodeRow.drw x y n
  | .skp x => Laws.OpcodeRow.skp x
  | .sknp x => Laws.OpcodeRow.sknp x
  | .ldVxDT x => Laws.OpcodeRow.ldVxDT x
  | .ldVxK x => Laws.OpcodeRow.ldVxK x
  | .ldDTVx x => Laws.OpcodeRow.ldDTVx x
  | .ldSTVx x => Laws.OpcodeRow.ldSTVx x
  | .addI x => Laws.OpcodeRow.addI x
  | .ldF x => Laws.OpcodeRow.ldF x
  | .ldB x => Laws.OpcodeRow.ldB x
  | .storeRegs x => Laws.OpcodeRow.storeRegs x
  | .loadRegs x => Laws.OpcodeRow.loadRegs x

/-- An instruction's row fits every word of it: the encoder's, and a shift's with any y. -/
theorem row_fits_of_decode {w : Word} {i : Instr} (decoded : decode w = .ok i) : i.row.fits w = true := by
  obtain rfl | ⟨x, y, ⟨rfl, rfl⟩ | ⟨rfl, rfl⟩⟩ := decode_ok w i decoded
  · exact row_fits_encode i
  · exact beq_iff_eq.mpr (Laws.formatXY_and _ x y _)
  · exact beq_iff_eq.mpr (Laws.formatXY_and _ x y _)

/-- The rows that fit a word of an instruction are the instruction's own. -/
theorem fits_iff_of_decode {w : Word} {i : Instr} (decoded : decode w = .ok i) {r : OpcodeRow}
    (member : r ∈ opcodeRows) : r.fits w = true ↔ r = i.row := by
  constructor
  · exact fun fits => eq_of_fits member (row_mem_opcodeRows i) fits (row_fits_of_decode decoded)
  · rintro rfl
    exact row_fits_of_decode decoded

/-- A word is well formed when it decodes, and only then (R84, R86). -/
theorem wellFormed_iff_decode (w : Word) : wellFormed w = true ↔ ∃ i, decode w = .ok i := by
  rw [wellFormed, List.any_eq_true]
  constructor
  · rintro ⟨r, member, fits⟩
    obtain ⟨i, rfl⟩ := exists_row_eq r member
    exact decode_of_row_fits i fits
  · rintro ⟨i, decoded⟩
    exact ⟨i.row, row_mem_opcodeRows i, row_fits_of_decode decoded⟩

/-- A word under no row does not decode. -/
theorem decode_of_no_row {w : Word} (unmatched : ∀ r ∈ opcodeRows, r.fits w = false) :
    decode w = .error (.unknownOpcode w) := by
  cases decoded : decode w with
  | ok i => exact absurd (row_fits_of_decode decoded) (by simp [unmatched _ (row_mem_opcodeRows i)])
  | error e => rw [decode_error w e decoded]

/-- Settles O2: the rows that fit, the words that decode, and the fault of a fetched word that does not. -/
theorem decodeByTable : Obligations.DecodeByTable := by
  refine ⟨fun w i decoded => ⟨row_mem_opcodeRows i, fun r member => fits_iff_of_decode decoded member⟩,
    wellFormed_iff_decode, fun s running unmatched => ?_⟩
  rw [Machine.step_running s running, Machine.runInstruction_of_error (decode_of_no_row unmatched)]
  rfl

end Sys2Proof

/-! # The step cycle (40_step_cycle.md): what a STEP returns, when it faults, and the instruction it runs -/

namespace Sys2Proof.Machine

/-! ## What an instruction that completes is not -/

section
variable {s : State} {i : Instr}

theorem completesIn.ne_ldVxK (guard : completesIn s i) (x : RegIdx) : i ≠ .ldVxK x := by
  rintro rfl
  exact guard

theorem completesIn.not_call_full (guard : completesIn s i) (nnn : Addr) (call : i = .call nnn) : s.sp.val ≠ 16 := by
  subst call
  exact Nat.ne_of_lt guard

theorem completesIn.not_ret_empty (guard : completesIn s i) (ret : i = .ret) : s.sp.val ≠ 0 := by
  subst ret
  exact Nat.ne_of_gt guard

end

/-! ## The edges of the key wait (R196) -/

theorem getLsbD_edges (s : State) (k : RegIdx) : s.edges.getLsbD k.val = true ↔ s.keyEdge k := by
  simp [State.edges, State.keyEdge]

theorem not_keyEdge_of_leastKey_none {s : State} (noEdge : leastKey s.edges = none) (k : RegIdx) : ¬s.keyEdge k := by
  rw [← getLsbD_edges, (leastKey_none _).mp noEdge k]
  exact Bool.false_ne_true

theorem keyEdge_of_leastKey_some {s : State} {k : RegIdx} (edge : leastKey s.edges = some k) : s.keyEdge k :=
  (getLsbD_edges s k).mp ((leastKey_some _ _).mp edge).1

/-! ## The reply of a STEP by the two states -/

section
variable {s t : State}

theorem stepReply_of_halted (began : s.status = .halted) : stepReply s t = .event .halted := by
  simp only [stepReply, began]

theorem stepReply_of_ends_running (began : s.status ≠ .halted) (ends : t.status = .running) :
    stepReply s t = .event .continued := by
  cases status : s.status with
  | halted => exact absurd status began
  | running | awaitingKey => simp only [stepReply, status, ends]

theorem stepReply_of_ends_waiting {x : RegIdx} (began : s.status ≠ .halted) (ends : t.status = .awaitingKey x) :
    stepReply s t = .event .awaitingKey := by
  cases status : s.status with
  | halted => exact absurd status began
  | running | awaitingKey => simp only [stepReply, status, ends]

theorem stepReply_faulted {f : FaultRecord} (began : s.status = .running) :
    stepReply s (t.faulted f) = .fault f := by
  simp only [stepReply, began, State.faulted_status, State.faulted_fault]

end

/-! ## What a STEP returns (R104 to R106) -/

/-- The reply of a STEP from s to t, with why it is returned: the table of R104 and the three faults of R105. -/
inductive StepReport (s : State) : State → StepReply → Prop
  | completes {i : Instr} {t : State} (began : s.status = .running) (decoded : decode s.fetchWord = .ok i)
      (guard : completesIn s.advance i) (ends : t.status = .running) : StepReport s t (.event .continued)
  | beginsWait {x : RegIdx} {t : State} (began : s.status = .running) (decoded : decode s.fetchWord = .ok (.ldVxK x))
      (ends : t.status = .awaitingKey x) : StepReport s t (.event .awaitingKey)
  | overflows {nnn : Addr} (began : s.status = .running) (decoded : decode s.fetchWord = .ok (.call nnn))
      (full : s.sp.val = 16) : StepReport s (s.advance.faulted .stackOverflow) (.fault .stackOverflow)
  | underflows (began : s.status = .running) (decoded : decode s.fetchWord = .ok .ret)
      (empty : s.sp.val = 0) : StepReport s (s.advance.faulted .stackUnderflow) (.fault .stackUnderflow)
  | unknown (began : s.status = .running) (undecoded : decode s.fetchWord = .error (.unknownOpcode s.fetchWord)) :
      StepReport s (s.advance.faulted (.unknownOpcode s.fetchWord s.pc)) (.fault (.unknownOpcode s.fetchWord s.pc))
  | waitsOn {x : RegIdx} {t : State} (began : s.status = .awaitingKey x) (noEdge : ∀ k, ¬s.keyEdge k)
      (ends : t.status = .awaitingKey x) : StepReport s t (.event .awaitingKey)
  | endsWait {x k : RegIdx} {t : State} (began : s.status = .awaitingKey x) (edge : s.keyEdge k)
      (ends : t.status = .running) : StepReport s t (.event .continued)
  | stays (began : s.status = .halted) : StepReport s s (.event .halted)

/-- What a running core returns by what its instruction made of the state. -/
theorem ExecOutcome.report {s t : State} {i : Instr} (outcome : ExecOutcome s.advance i t)
    (began : s.status = .running) (decoded : decode s.fetchWord = .ok i) : StepReport s t (stepReply s t) := by
  have alive : s.status ≠ .halted := by simp [began]
  cases outcome with
  | completes guard kept =>
    have ends : t.status = .running := kept.control.1.trans began
    rw [stepReply_of_ends_running alive ends]
    exact .completes began decoded guard ends
  | waits x =>
    rw [stepReply_of_ends_waiting alive (State.setStatus_status _ _)]
    exact .beginsWait began decoded rfl
  | overflows nnn full =>
    rw [stepReply_faulted began]
    exact .overflows began decoded full
  | underflows empty =>
    rw [stepReply_faulted began]
    exact .underflows began decoded empty

/-- Every STEP returns a reply for one of the reasons. -/
theorem StepOutcome.report {s t : State} (outcome : StepOutcome s t) : StepReport s t (stepReply s t) := by
  cases outcome with
  | executes began decoded _ made => exact made.report began decoded
  | unknown began undecoded =>
    rw [stepReply_faulted began]
    exact .unknown began undecoded
  | waitsOn began noEdge =>
    rw [stepReply_of_ends_waiting (by simp [began]) ((State.sampleKeys_status s).trans began)]
    exact .waitsOn began (not_keyEdge_of_leastKey_none noEdge) began
  | takesKey began edge =>
    rw [stepReply_of_ends_running (by simp [began]) (State.setStatus_status _ _)]
    exact .endsWait began (keyEdge_of_leastKey_some edge) rfl
  | stays began =>
    rw [stepReply_of_halted began]
    exact .stays began

section
variable {s t : State} {reply : StepReply} (report : StepReport s t reply)
include report

/-! ## The events (R104) -/

theorem StepReport.continued_iff : reply = .event .continued ↔
    (s.status = .running ∧ (∃ i, decode s.fetchWord = .ok i ∧ ∀ x, i ≠ .ldVxK x) ∧ t.status = .running) ∨
    ((∃ x, s.status = .awaitingKey x) ∧ (∃ k, s.keyEdge k) ∧ t.status = .running) := by
  cases report with
  | completes began decoded guard ends => simp [began, decoded, ends, guard.ne_ldVxK]
  | beginsWait began _ ends => simp [began, ends]
  | overflows began | underflows began | unknown began => simp [began]
  | waitsOn began _ ends => simp [began, ends]
  | endsWait began edge ends => simpa [began, ends] using ⟨_, edge⟩
  | stays began => simp [began]

theorem StepReport.awaitingKey_iff : reply = .event .awaitingKey ↔
    (s.status = .running ∧ ∃ x, decode s.fetchWord = .ok (.ldVxK x) ∧ t.status = .awaitingKey x) ∨
    (∃ x, s.status = .awaitingKey x ∧ (∀ k, ¬s.keyEdge k) ∧ t.status = .awaitingKey x) := by
  cases report with
  | completes began _ _ ends => simp [began, ends]
  | beginsWait began decoded ends => simp [began, decoded, ends]
  | overflows began | underflows began | unknown began => simp [began]
  | waitsOn began noEdge ends => simp [began, noEdge, ends]
  | endsWait began _ ends => simp [began, ends]
  | stays began => simp [began]

theorem StepReport.halted_iff : reply = .event .halted ↔ s.status = .halted := by
  cases report with
  | completes began | beginsWait began | overflows began | underflows began | unknown began | waitsOn began
  | endsWait began | stays began => simp [began]

theorem StepReport.running_iff {e : Event} (returned : reply = .event e) :
    t.status = .running ↔ e = .continued := by
  cases report with
  | completes _ _ _ ends | endsWait _ _ ends | beginsWait _ _ ends | waitsOn _ _ ends =>
    obtain rfl := StepReply.event.inj returned
    simp [ends]
  | overflows | underflows | unknown => simp at returned
  | stays began =>
    obtain rfl := StepReply.event.inj returned
    simp [began]

/-! ## The faults (R105) -/

theorem StepReport.began_running {f : FaultRecord} (returned : reply = .fault f) : s.status = .running := by
  cases report with
  | overflows began | underflows began | unknown began => exact began
  | completes | beginsWait | waitsOn | endsWait | stays => simp at returned

theorem StepReport.ends_halted {f : FaultRecord} (returned : reply = .fault f) : t.status = .halted := by
  cases report with
  | overflows | underflows | unknown => rfl
  | completes | beginsWait | waitsOn | endsWait | stays => simp at returned

variable (began : s.status = .running)
include began

theorem StepReport.stackOverflow_iff : reply = .fault .stackOverflow ↔
    (∃ nnn, decode s.fetchWord = .ok (.call nnn)) ∧ s.sp.val = 16 := by
  cases report with
  | completes _ decoded guard => simpa [decoded] using guard.not_call_full
  | beginsWait _ decoded | underflows _ decoded => simp [decoded]
  | overflows _ decoded full => simp [decoded, full]
  | unknown _ undecoded => simp [undecoded]
  | waitsOn waiting | endsWait waiting | stays waiting => simp [began] at waiting

theorem StepReport.stackUnderflow_iff : reply = .fault .stackUnderflow ↔
    decode s.fetchWord = .ok .ret ∧ s.sp.val = 0 := by
  cases report with
  | completes _ decoded guard => simpa [decoded] using guard.not_ret_empty
  | beginsWait _ decoded | overflows _ decoded => simp [decoded]
  | underflows _ decoded empty => simp [decoded, empty]
  | unknown _ undecoded => simp [undecoded]
  | waitsOn waiting | endsWait waiting | stays waiting => simp [began] at waiting

/-- A fault that is neither of the stack's is the unknown word's. -/
theorem StepReport.fault_iff : (∃ f, reply = .fault f) ↔
    (∀ i, decode s.fetchWord ≠ .ok i) ∨ reply = .fault .stackOverflow ∨ reply = .fault .stackUnderflow := by
  cases report with
  | completes _ decoded | beginsWait _ decoded => simp [decoded]
  | overflows | underflows => simp
  | unknown _ undecoded => simp [undecoded]
  | waitsOn waiting | endsWait waiting | stays waiting => simp [began] at waiting

end

/-- Settles O11: the reasons of the reply (`StepReport`), read for each event. -/
theorem stepEvents : Obligations.StepEvents := by
  intro s t next
  have report := (StepOutcome.of_next next).report
  exact ⟨report.continued_iff, report.awaitingKey_iff, report.halted_iff, fun _ => report.running_iff⟩

/-- Settles O9: the reasons of the reply (`StepReport`), read for the faults. -/
theorem stepFaults : Obligations.StepFaults := by
  intro s t next
  have report := (StepOutcome.of_next next).report
  refine ⟨fun began => ?_, fun notRunning f returned => notRunning (report.began_running returned)⟩
  have overflow := report.stackOverflow_iff began
  have underflow := report.stackUnderflow_iff began
  refine ⟨?_, overflow, underflow, fun ⟨f, returned⟩ => report.ends_halted returned⟩
  rw [report.fault_iff began, overflow, underflow]

/-! ## The instruction run, and the Halted core (R101 to R103, R106) -/

/-- The fetch reads the high byte first and wraps at the top of memory (R64, R101). -/
theorem State.fetchWord_eq (s : State) :
    s.fetchWord = joinBytes (s.memRead s.pc.toNat) (s.memRead ((s.pc.toNat + 1) % 4096)) := by
  rw [State.memRead_mod]
  rfl

/-- Settles O6: the word of `State.fetchWord_eq` decodes, so STEP is exec of it on the advanced state. -/
theorem stepRunsInstruction : Obligations.StepRunsInstruction := by
  intro s i running decoded
  rw [← s.fetchWord_eq] at decoded
  rw [step_running s running, runInstruction_of_ok decoded]
  rfl

/-- Settles O10: STEP by STATUS, and its reply when it began Halted. -/
theorem haltedStep : Obligations.HaltedStep :=
  fun _ halted => ⟨step_halted halted, stepReply_of_halted halted⟩

end Sys2Proof.Machine

/-! # Control transfer (41_control_transfer.md): RET, CALL, the jumps and the register skips -/

namespace Sys2Proof.Machine

/-! ## RET and CALL, case by case (R120, R122) -/

section
variable {s : State}

theorem exec_ret_of_live (live : 0 < s.sp.val) : exec .ret s = .next (s.popPc live) :=
  dif_pos live

theorem exec_ret_of_empty (empty : s.sp.val = 0) : exec .ret s = .next (s.faulted .stackUnderflow) :=
  dif_neg (Nat.not_lt.mpr empty.le)

theorem exec_call_of_room (nnn : Addr) (room : s.sp.val < stackDepth) :
    exec (.call nnn) s = .next ((s.push s.pc room).setPc nnn) :=
  dif_pos room

theorem exec_call_of_full (nnn : Addr) (full : s.sp.val = stackDepth) :
    exec (.call nnn) s = .next (s.faulted .stackOverflow) :=
  dif_neg full.not_lt

/-- What a CALL with room left behind is its push and jump. -/
theorem eq_of_exec_call {t : State} {nnn : Addr} (room : s.sp.val < stackDepth)
    (next : exec (.call nnn) s = .next t) : t = (s.push s.pc room).setPc nnn :=
  Host.Outcome.next.inj (next.symm.trans (exec_call_of_room nnn room))

/-- A pushed address is the only stack entry that is new (R122). -/
theorem State.getElem_push_stk (a : Addr) (room : s.sp.val < stackDepth) (j : Fin 16) :
    (s.push a room).stk[j] = if j.val = s.sp.val then a else s.stk[j] := by
  simp only [State.push_stk, Fin.getElem_fin, Vector.getElem_set, eq_comm]

end

/-- Settles O35: a CALL's entry lies at the SP to which the RET comes back, wherever PC has gone in between. -/
theorem retPops : Obligations.RetPops := by
  refine ⟨rfl, fun s live => ⟨_, exec_ret_of_live live, rfl, rfl, rfl⟩, fun s empty => exec_ret_of_empty empty,
    fun s t nnn room next => ?_⟩
  obtain rfl := eq_of_exec_call room next
  refine ⟨_, exec_ret_of_live (Nat.succ_pos _), ?_, rfl⟩
  exact Vector.getElem_set_self room

/-- While calls are nested from an empty stack, SP counts them and the core runs (R122). -/
theorem nestedCalls_sp {s : Nat → State} {target : Nat → Addr} (empty : (s 0).sp.val = 0)
    (running : (s 0).status = .running)
    (calls : ∀ k < 17, exec (.call (target k)) (s k) = .next (s (k + 1))) (k : Nat) (depth : k ≤ 16) :
    (s k).sp.val = k ∧ (s k).status = .running := by
  induction k with
  | zero => exact ⟨empty, running⟩
  | succ k ih =>
    obtain ⟨sp, status⟩ := ih (by omega)
    have room : (s k).sp.val < stackDepth := by rw [sp]; exact depth
    rw [eq_of_exec_call room (calls k (by omega))]
    exact ⟨congrArg Nat.succ sp, status⟩

/-- Settles O36: the nested calls of `nestedCalls_sp` fill the stack, and the seventeenth finds it full. -/
theorem callPushes : Obligations.CallPushes := by
  refine ⟨fun nnn => decodeOfEncode (.call nnn),
    fun s nnn room => ⟨_, exec_call_of_room nnn room, rfl, State.getElem_push_stk s.pc room, rfl⟩,
    fun s nnn full => exec_call_of_full nnn full, fun s target empty running calls => ?_⟩
  have nested := nestedCalls_sp empty running calls
  have overflow : s 17 = (s 16).faulted .stackOverflow :=
    Host.Outcome.next.inj ((calls 16 (by omega)).symm.trans (exec_call_of_full _ (nested 16 le_rfl).1))
  refine ⟨nested, ?_⟩
  rw [overflow]
  exact ⟨rfl, rfl⟩

/-! ## Jumps and skips (R121, R123 to R127) -/

/-- A jump to itself undoes the advance (R121). -/
theorem step_selfJump {s : State} (running : s.status = .running) (decoded : decode s.fetchWord = .ok (.jp s.pc)) :
    step s = .next s := by
  rw [step_running s running, runInstruction_of_ok decoded]
  rfl

/-- Settles O37: JP writes PC alone, so a jump to itself ends where it began (`step_selfJump`), running. -/
theorem jpJumps : Obligations.JpJumps :=
  ⟨fun nnn => decodeOfEncode (.jp nnn), fun _ _ => rfl, fun _ running decoded =>
    ⟨step_selfJump running decoded, stepReply_of_ends_running (by simp [running]) running⟩⟩

/-- The offset jump reduces the sum, not its parts (R127). -/
theorem toNat_offsetTarget (nnn : Addr) (v0 : Byte) :
    (offsetTarget nnn v0).toNat = (v0.toNat + nnn.toNat) % 4096 :=
  BitVec.toNat_ofNat ..

/-- Settles O38: the target is `toNat_offsetTarget`, and PC alone is written. -/
theorem jpV0Jumps : Obligations.JpV0Jumps :=
  ⟨fun nnn => decodeOfEncode (.jpV0 nnn), fun s nnn => ⟨_, rfl, toNat_offsetTarget nnn (s.getV 0), rfl⟩⟩

section
variable (s : State) (a b : Byte)

theorem State.skipIf_beq : s.skipIf (a == b) = { s with pc := if a = b then s.pc + 2 else s.pc } := by
  simp only [State.skipIf_eq, beq_iff_eq]

theorem State.skipIf_bne : s.skipIf (a != b) = { s with pc := if a ≠ b then s.pc + 2 else s.pc } := by
  simp only [State.skipIf_eq, bne_iff_ne]

end

/-- 5xyn is SE Vx,Vy with n = 0 alone (R86). -/
theorem decode_familyFive (x y : RegIdx) (n : Nibble) : decode (formatXYN 0x5 x y n) =
    if n = 0 then .ok (.seReg x y) else .error (.unknownOpcode (formatXYN 0x5 x y n)) := by
  simp [decode, requireNZero]

/-- 9xyn is SNE Vx,Vy with n = 0 alone (R86). -/
theorem decode_familyNine (x y : RegIdx) (n : Nibble) : decode (formatXYN 0x9 x y n) =
    if n = 0 then .ok (.sneReg x y) else .error (.unknownOpcode (formatXYN 0x9 x y n)) := by
  simp [decode, requireNZero]

/-- Settles O39: each skip is `skipIf` of an equality or of its negation. -/
theorem registerSkips : Obligations.RegisterSkips :=
  ⟨fun x kk => ⟨decodeOfEncode (.seImm x kk), decodeOfEncode (.sneImm x kk)⟩,
    fun x y n => ⟨decode_familyFive x y n, decode_familyNine x y n⟩,
    fun s x y kk => ⟨congrArg Host.Outcome.next (s.skipIf_beq (s.getV x) kk),
      congrArg Host.Outcome.next (s.skipIf_bne (s.getV x) kk),
      congrArg Host.Outcome.next (s.skipIf_beq (s.getV x) (s.getV y)),
      congrArg Host.Outcome.next (s.skipIf_bne (s.getV x) (s.getV y))⟩⟩

end Sys2Proof.Machine

/-! # Register load, arithmetic, logic, shift, random (42_alu.md): what each instruction writes to V[x] and to VF -/

namespace Sys2Proof.Machine

/-! ## One register written, or a result and a flag (R20, R152) -/

section
variable (s : State)

/-- Writing the registers alone keeps all the rest. -/
theorem onlyRegisters_withV (v : Vector Byte 16) : OnlyRegisters s { s with v := v } where
  memory := fun _ => rfl
  stack := ⟨rfl, rfl⟩
  timers := ⟨rfl, rfl⟩
  screen := sameScreen_of_eq rfl rfl
  keys := ⟨rfl, rfl⟩
  control := ⟨rfl, rfl, rfl⟩
  draws := rfl

theorem setsReg_setV (x : RegIdx) (b : Byte) : SetsReg s (s.setV x b) x b where
  regs := fun r => s.getV_setV x r b
  index := rfl
  pc := rfl
  rest := onlyRegisters_withV s _

theorem setsRegAndFlag_writeResult (x : RegIdx) (b f : Byte) : SetsRegAndFlag s (s.writeResult x b f) x b f where
  regs := fun r => s.getV_writeResult x r b f
  index := rfl
  pc := rfl
  rest := onlyRegisters_withV s _

end

/-! ## The flags (R146 to R150, R153) -/

section
variable (a b : Byte)

theorem toNat_flagByte (set : Bool) : (flagByte set).toNat = set.toNat := by
  cases set <;> rfl

theorem carryFlag_eq : carryFlag a b = if a.toNat + b.toNat > 255 then 1 else 0 := by
  simp only [carryFlag, flagByte, decide_eq_true_eq]

theorem borrowFlag_of_canonical {c : Config} (canonical : c.qBorrowInvert = false) :
    borrowFlag c a b = if a.toNat ≥ b.toNat then 1 else 0 := by
  simp [borrowFlag, canonical, flagByte, noBorrow]

/-- Under Q_BORROW_INVERT the flag is the other byte (R8). -/
theorem borrowFlag_of_inverted {c : Config} (inverted : c.qBorrowInvert = true) :
    borrowFlag c a b = if a.toNat ≥ b.toNat then 0 else 1 := by
  by_cases enough : b.toNat ≤ a.toNat <;> simp [borrowFlag, inverted, flagByte, noBorrow, enough]

theorem toNat_shiftRightFlag : (shiftRightFlag a).toNat = a.toNat % 2 := by
  rw [shiftRightFlag, toNat_flagByte, BitVec.getLsbD, Nat.toNat_testBit, Nat.pow_zero, Nat.div_one]

theorem toNat_shiftLeftFlag : (shiftLeftFlag a).toNat = a.toNat / 128 := by
  have byte : a.toNat < 256 := a.isLt
  rw [shiftLeftFlag, toNat_flagByte, BitVec.getLsbD, Nat.toNat_testBit]
  omega

/-! ## The results (R147 to R150, R153) -/

theorem toNat_byteSub : (a - b).toNat = (a.toNat + 256 - b.toNat) % 256 := by
  have byte : b.toNat < 256 := b.isLt
  rw [BitVec.toNat_sub]
  omega

theorem toNat_byteShiftLeft : (a <<< 1).toNat = a.toNat * 2 % 256 := by
  rw [BitVec.toNat_shiftLeft, Nat.shiftLeft_eq]

theorem toNat_byteShiftRight : (a >>> 1).toNat = a.toNat / 2 := by
  rw [BitVec.toNat_ushiftRight, Nat.shiftRight_one]

/-- A masked byte sets no bit outside the mask (R151). -/
theorem masked_and_not_mask : a &&& b &&& ~~~b = 0 := by
  rw [BitVec.and_assoc, BitVec.and_not_self]
  exact BitVec.and_zero

end

/-! ## Loads, logic and ADD Vx,kk: V[x] alone (R140 to R145) -/

/-- Settles O40: each load is one register write. -/
theorem registerLoads : Obligations.RegisterLoads :=
  ⟨fun x y kk => ⟨decodeOfEncode (.ldImm x kk), decodeOfEncode (.ldReg x y)⟩,
    fun s x kk => ⟨_, rfl, setsReg_setV s x kk⟩, fun s x y => ⟨_, rfl, setsReg_setV s x (s.getV y)⟩⟩

/-- Settles O41: each instruction is one register write, of the bitwise operation on the old operands. -/
theorem logic : Obligations.Logic :=
  ⟨fun x y => ⟨decodeOfEncode (.orReg x y), decodeOfEncode (.andReg x y), decodeOfEncode (.xorReg x y)⟩,
    fun s x _ => ⟨⟨_, _, rfl, setsReg_setV s x _, fun _ => BitVec.getLsbD_or⟩,
      ⟨_, _, rfl, setsReg_setV s x _, fun _ => BitVec.getLsbD_and⟩,
      ⟨_, _, rfl, setsReg_setV s x _, fun _ => BitVec.getLsbD_xor⟩⟩⟩

/-- Settles O42: one register write, of the sum that wraps. -/
theorem addImmediate : Obligations.AddImmediate :=
  ⟨fun x kk => decodeOfEncode (.addImm x kk),
    fun s x kk => ⟨_, _, rfl, setsReg_setV s x _, BitVec.toNat_add (s.getV x) kk⟩⟩

/-! ## ADD, SUB, SUBN and the shifts: V[x], then VF (R146 to R150) -/

/-- Settles O43: the flag-writing pair with the wrapped sum and the carry of the old operands. -/
theorem addWithCarry : Obligations.AddWithCarry := by
  refine ⟨fun x y => decodeOfEncode (.addReg x y), fun s x y => ⟨_, _, rfl, BitVec.toNat_add _ _, ?_⟩⟩
  rw [← carryFlag_eq]
  exact setsRegAndFlag_writeResult s x _ _

/-- Settles O44: the flag-writing pair with the wrapped difference and the borrow flag, SUBN with the operands
exchanged. -/
theorem subtract : Obligations.Subtract :=
  ⟨fun x y => ⟨decodeOfEncode (.subReg x y), decodeOfEncode (.subnReg x y)⟩,
    fun s x y => ⟨_, _, _, rfl, setsRegAndFlag_writeResult s x _ _, toNat_byteSub (s.getV x) (s.getV y),
      borrowFlag_of_canonical _ _, borrowFlag_of_inverted _ _⟩,
    fun s x y => ⟨_, _, _, rfl, setsRegAndFlag_writeResult s x _ _, toNat_byteSub (s.getV y) (s.getV x),
      borrowFlag_of_canonical _ _, borrowFlag_of_inverted _ _⟩⟩

/-- Settles O45: the flag-writing pair with the shifted byte and the bit moved out. -/
theorem shifts : Obligations.Shifts :=
  ⟨fun x y => ⟨decode_shr x y, decode_shl x y⟩,
    fun s x => ⟨_, _, _, rfl, setsRegAndFlag_writeResult s x _ _, toNat_byteShiftRight _, toNat_shiftRightFlag _⟩,
    fun s x => ⟨_, _, _, rfl, setsRegAndFlag_writeResult s x _ _, toNat_byteShiftLeft _, toNat_shiftLeftFlag _⟩⟩

/-! ## RND (R151) -/

theorem State.getV_loadMasked (s : State) (x r : RegIdx) (kk byte : Byte) :
    (s.loadMasked x kk byte).getV r = if r = x then byte &&& kk else s.getV r :=
  s.getV_setV x r (byte &&& kk)

/-- Settles O46: one register write, of the free byte under the mask, and the count of the draw. -/
theorem randomMasked : Obligations.RandomMasked := by
  refine ⟨fun x kk => decodeOfEncode (.rnd x kk), fun s x kk => ⟨_, _, rfl, rfl, ?written, ?masked, rfl⟩⟩
  case written => exact fun r => s.getV_loadMasked x r kk s.randomByte
  case masked =>
    rw [State.getV_countDraw, State.getV_loadMasked, if_pos rfl]
    exact masked_and_not_mask s.randomByte kk

end Sys2Proof.Machine

/-! # Index register and memory (43_index_memory.md): what each instruction leaves in I, in memory and in V -/

namespace Sys2Proof.Machine

/-! ## The index register (R160 to R162) -/

/-- Settles O47: one write of I. -/
theorem loadIndex : Obligations.LoadIndex :=
  ⟨fun nnn => decodeOfEncode (.ldI nnn), fun _ _ => rfl⟩

/-- The font address reduces the sum, with no mask on the register (R162). -/
theorem toNat_fontAddr (c : Config) (b : Byte) : (fontAddr c b).toNat = (c.fontBase.val + 5 * b.toNat) % 4096 :=
  BitVec.toNat_ofNat ..

/-- Settles O49: one write of I, with the address of `toNat_fontAddr`. -/
theorem fontAddress : Obligations.FontAddress :=
  ⟨fun x => decodeOfEncode (.ldF x), fun s x => ⟨_, rfl, toNat_fontAddr s.cfg (s.getV x), rfl⟩⟩

theorem indexFlag_eq (i : Addr) (b : Byte) : indexFlag i b = if i.toNat + b.toNat > 0xFFF then 1 else 0 := by
  simp only [indexFlag, flagByte, decide_eq_true_eq]

theorem State.toNat_addToI_i (s : State) (k : Nat) : (s.addToI k).i.toNat = (s.i.toNat + k) % 4096 :=
  BitVec.toNat_ofNat ..

section
variable {s : State} (x : RegIdx)

theorem exec_addI_of_canonical (canonical : s.cfg.qAddIVF = false) :
    exec (.addI x) s = .next (s.addToI (s.getV x).toNat) :=
  congrArg Host.Outcome.next (if_neg (Bool.eq_false_iff.mp canonical))

theorem exec_addI_of_flagged (flagged : s.cfg.qAddIVF = true) :
    exec (.addI x) s = .next ((s.addToI (s.getV x).toNat).setV vf (indexFlag s.i (s.getV x))) :=
  congrArg Host.Outcome.next (if_pos flagged)

end

/-- The flagged sum writes VF and leaves the other registers (R161). -/
theorem State.getV_setV_indexFlag (s : State) (k : Nat) (b : Byte) (r : RegIdx) :
    ((s.addToI k).setV vf (indexFlag s.i b)).getV r =
      if r = 15 then (if s.i.toNat + b.toNat > 0xFFF then 1 else 0) else s.getV r := by
  rw [State.getV_setV, indexFlag_eq]
  rfl

/-- Settles O48: the sum goes to I in both settings of Q_ADDI_VF; the flag goes to VF in one of them. -/
theorem addIndex : Obligations.AddIndex := by
  refine ⟨fun x => decodeOfEncode (.addI x), fun s x => ?_⟩
  have sum := s.toNat_addToI_i (s.getV x).toNat
  cases setting : s.cfg.qAddIVF with
  | false => exact ⟨_, exec_addI_of_canonical x setting, sum, rfl, fun _ _ => rfl, nofun⟩
  | true =>
    exact ⟨_, exec_addI_of_flagged x setting, sum, rfl, nofun, fun _ => s.getV_setV_indexFlag _ (s.getV x)⟩

/-! ## The decimal digits (R163) -/

/-- Digit j of a byte reads back at I + j as its number: the three addresses are different, and a digit fits in its
byte. -/
theorem State.toNat_memRead_bcdDigits (s : State) (b : Byte) (j : Nat) {digit : Nat} (hj : j < 3)
    (written : (bcdDigits b)[j]'hj = BitVec.ofNat 8 digit) (fits : digit < 256) :
    ((s.memWriteList (s.dataAddr 0) (bcdDigits b)).memRead (s.i.toNat + j)).toNat = digit := by
  rw [State.dataAddr, Nat.add_zero, s.memRead_memWriteList_at _ j (bcdDigits b) hj (show 3 ≤ memSize by decide),
    written, BitVec.toNat_ofNat]
  exact Nat.mod_eq_of_lt fits

/-- Settles O50: the list of digits is written from I on, and nothing else. -/
theorem storeDigits : Obligations.StoreDigits := by
  refine ⟨fun x => decodeOfEncode (.ldB x), fun s x => ?_⟩
  have byte : (s.getV x).toNat < 256 := (s.getV x).isLt
  have digit := s.toNat_memRead_bcdDigits (s.getV x)
  refine ⟨_, rfl, ?hundreds, ?tens, ?ones, ?others, ?frame⟩
  case hundreds => exact digit 0 (by decide) rfl (by omega)
  case tens => exact digit 1 (by decide) rfl (by omega)
  case ones => exact digit 2 (by decide) rfl (by omega)
  case others => exact fun a outside => s.memRead_memWriteList_other _ a _ outside
  case frame => exact s.memWriteList_eq _ _

/-! ## The ranges of registers (R164 to R166) -/

section
variable (s : State)

@[simp] theorem State.getV_incIndex (n : Nat) (r : RegIdx) : (s.incIndex n).getV r = s.getV r := by
  rw [State.incIndex_eq]; rfl

/-- I goes past the range under Q_MEM_INC_I alone (R166). -/
theorem State.toNat_incIndex_i (n : Nat) :
    (s.incIndex n).i.toNat = if s.cfg.qMemIncI = true then (s.i.toNat + n) % 4096 else s.i.toNat := by
  rw [State.incIndex_eq, apply_ite BitVec.toNat, BitVec.toNat_ofNat]

theorem State.incIndex_storeRange_eq (m n : Nat) : (s.storeRange n).incIndex m =
    { s with mem := ((s.storeRange n).incIndex m).mem, i := (s.incIndex m).i } := by
  rw [State.incIndex_eq, State.storeRange_eq, State.incIndex_eq]

theorem State.incIndex_loadRange_eq (m n : Nat) : (s.loadRange n).incIndex m =
    { s with v := ((s.loadRange n).incIndex m).v, i := (s.incIndex m).i } := by
  rw [State.incIndex_eq, State.loadRange_eq, State.incIndex_eq]

end

/-- Settles O51: the bytes are those of the range, I is that of `State.incIndex`, and the rest is as it was. -/
theorem storeRegisters : Obligations.StoreRegisters := by
  refine ⟨fun x => decodeOfEncode (.storeRegs x), fun s x => ?_⟩
  have written := s.incIndex_storeRange_eq (x.val + 1) (x.val + 1)
  refine ⟨_, rfl, fun r => memRead_storeRegs_at rfl, fun a outside => ?others, ?index, ?frame⟩
  case others => rw [State.memRead_incIndex, s.memRead_storeRange_other _ a outside]
  case index => rw [written, s.toNat_incIndex_i, Nat.add_assoc]
  case frame => rw [written]

/-- After LD Vx,[I] register r up to x holds the byte at I + r (R165). -/
theorem getV_loadRegs (s : State) (x r : RegIdx) :
    ((s.loadRange (x.val + 1)).incIndex (x.val + 1)).getV r =
      if r ≤ x then s.memRead (s.i.toNat + r.val) else s.getV r := by
  simp only [State.getV_incIndex, s.getV_loadRange _ r x.isLt, Nat.lt_succ_iff, Fin.le_def]

/-- Settles O52: the load of one range, which reads back the bytes of a store at the same I. -/
theorem loadRegisters : Obligations.LoadRegisters := by
  refine ⟨fun x => decodeOfEncode (.loadRegs x), fun s x => ?loads, fun s t x other stored => ?inverts⟩
  case loads =>
    have loaded := s.incIndex_loadRange_eq (x.val + 1) (x.val + 1)
    refine ⟨_, rfl, getV_loadRegs s x, ?index, ?frame⟩
    case index => rw [loaded, s.toNat_incIndex_i, Nat.add_assoc]
    case frame => rw [loaded]
  case inverts =>
    refine ⟨_, rfl, fun r inRange => ?_⟩
    rw [getV_loadRegs, if_pos inRange]
    exact memRead_storeRegs_at stored inRange

end Sys2Proof.Machine

/-! # Display (44_display.md): CLS, and DRW by what the plotted sprite does to each pixel and to VF -/

namespace Sys2Proof.Machine

/-- Settles O54: the new frame is the blank one. -/
theorem clearScreen : Obligations.ClearScreen :=
  ⟨rfl, fun _ => ⟨_, rfl, pixelGet_blankFrame, rfl⟩⟩

/-! ## One draw (R171 to R175) -/

theorem flagByte_eq_one_iff (set : Bool) : flagByte set = 1 ↔ set = true := by
  cases set <;> decide

/-- A lit pixel lies inside the frame. -/
theorem State.inside_of_pixel {s : State} {px py : Nat} (lit : s.pixel px py = true) : px < 64 ∧ py < 32 := by
  by_contra outside
  have unlit : s.pixel px py = false := pixelGet_outside s.fb px py (by omega)
  exact Bool.false_ne_true (unlit.symm.trans lit)

/-- The state a DRW leaves. -/
def State.afterDraw (s : State) (x y : RegIdx) (n : Fin 16) : State :=
  (s.setScreen (s.drawSprite x y n.val).fb).setV vf (flagByte (s.drawSprite x y n.val).hit)

section
variable (s : State) (x y : RegIdx) (n : Fin 16)

theorem exec_drw : exec (.drw x y n) s = .next (s.afterDraw x y n) := rfl

theorem eq_of_exec_drw {t : State} (next : exec (.drw x y n) s = .next t) : t = s.afterDraw x y n :=
  Host.Outcome.next.inj (next.symm.trans (exec_drw s x y n))

theorem State.afterDraw_eq :
    s.afterDraw x y n = { s with fb := (s.afterDraw x y n).fb, v := (s.afterDraw x y n).v, dirty := true } := rfl

theorem State.getV_afterDraw (r : RegIdx) :
    (s.afterDraw x y n).getV r = if r = 15 then flagByte (s.drawSprite x y n.val).hit else s.getV r :=
  State.getV_setV _ vf r _

/-- `plotSprite_spec` for the sprite, the origin and the frame of DRW: every pixel afterwards, and the collision. -/
theorem State.afterDraw_spec :
    (∀ px py, px < 64 → py < 32 →
      (spriteCovers s x y n.val px py → (s.afterDraw x y n).pixel px py = !s.pixel px py) ∧
      (¬spriteCovers s x y n.val px py → (s.afterDraw x y n).pixel px py = s.pixel px py)) ∧
    ((s.drawSprite x y n.val).hit = true ↔
      ∃ px py, px < 64 ∧ py < 32 ∧ spriteCovers s x y n.val px py ∧ s.pixel px py = true) := by
  obtain ⟨pixels, hit⟩ := plotSprite_spec s.cfg.qDrawWrap (fun r => s.memRead (s.dataAddr r)) (originX (s.getV x))
    (originY (s.getV y)) n.val ⟨s.fb, false⟩ (Nat.mod_lt _ (by decide)) (Nat.mod_lt _ (by decide)) n.isLt.le
  refine ⟨pixels, hit.trans ⟨?_, ?_⟩⟩
  · rintro (started | ⟨r, hr, c, hc, bit, lit⟩)
    · exact absurd started Bool.false_ne_true
    · obtain ⟨hx, hy⟩ := State.inside_of_pixel (s := s) lit
      exact ⟨_, _, hx, hy, ⟨r, hr, c, hc, bit, rfl, rfl⟩, lit⟩
  · rintro ⟨_, _, _, _, ⟨r, hr, c, hc, bit, rfl, rfl⟩, lit⟩
    exact .inr ⟨r, hr, c, hc, bit, lit⟩

/-- VF tells whether a covered pixel was lit (R174). -/
theorem State.getV_flag_afterDraw_eq_one_iff : (s.afterDraw x y n).getV 15 = 1 ↔
    ∃ px py, px < 64 ∧ py < 32 ∧ spriteCovers s x y n.val px py ∧ s.pixel px py = true := by
  rw [State.getV_afterDraw, if_pos rfl, flagByte_eq_one_iff]
  exact (s.afterDraw_spec x y n).2

end

/-- Settles O55: the pixels and the collision are those of `State.afterDraw_spec`; VF and DIRTY alone go with them. -/
theorem drawSprite : Obligations.DrawSprite := by
  refine ⟨fun x y n => decodeOfEncode (.drw x y n), fun s x y n => ?_⟩
  obtain ⟨pixels, hit⟩ := s.afterDraw_spec x y n
  refine ⟨_, exec_drw s x y n, pixels, (s.getV_flag_afterDraw_eq_one_iff x y n).mpr, fun unlit => ?flagClear,
    fun r other => ?registers, s.afterDraw_eq x y n⟩
  case flagClear =>
    have missed : (s.drawSprite x y n.val).hit = false := by
      rw [Bool.eq_false_iff, Ne, hit]
      rintro ⟨px, py, hx, hy, covered, lit⟩
      exact Bool.false_ne_true ((unlit px py hx hy covered).symm.trans lit)
    rw [State.getV_afterDraw, if_pos rfl, missed]
    rfl
  case registers => rw [State.getV_afterDraw, if_neg other]

/-! ## Two draws (R174) -/

section
variable {s : State} {x y : RegIdx} {n : Fin 16}

/-- A draw leaves the sprite where it was as long as VF does not move its origin: I, memory and the wrapping are as
before. -/
theorem spriteCovers_afterDraw
    (sameX : ((s.afterDraw x y n).getV x).toNat % 64 = (s.getV x).toNat % 64)
    (sameY : ((s.afterDraw x y n).getV y).toNat % 32 = (s.getV y).toNat % 32) (px py : Nat) :
    spriteCovers (s.afterDraw x y n) x y n.val px py ↔ spriteCovers s x y n.val px py := by
  unfold spriteCovers
  rw [sameX, sameY]
  rfl

/-- On a blank frame a draw lights the pixels that the sprite covers, and no other. -/
theorem State.pixel_afterDraw_of_blank (blank : ∀ px py, s.pixel px py = false) {px py : Nat} (hx : px < 64)
    (hy : py < 32) : (s.afterDraw x y n).pixel px py = true ↔ spriteCovers s x y n.val px py := by
  obtain ⟨inverted, kept⟩ := (s.afterDraw_spec x y n).1 px py hx hy
  rw [blank] at inverted kept
  by_cases covered : spriteCovers s x y n.val px py
  · exact iff_of_true (inverted covered) covered
  · exact iff_of_false (Bool.eq_false_iff.mp (kept covered)) covered

/-- A second draw that covers the same pixels inverts each of them back. -/
theorem State.pixel_afterDraw_afterDraw
    (same : ∀ px py, spriteCovers (s.afterDraw x y n) x y n.val px py ↔ spriteCovers s x y n.val px py)
    (px py : Nat) : ((s.afterDraw x y n).afterDraw x y n).pixel px py = s.pixel px py := by
  by_cases inside : px < 64 ∧ py < 32
  · obtain ⟨hx, hy⟩ := inside
    obtain ⟨inverted, kept⟩ := (s.afterDraw_spec x y n).1 px py hx hy
    obtain ⟨inverted', kept'⟩ := ((s.afterDraw x y n).afterDraw_spec x y n).1 px py hx hy
    rw [same] at inverted' kept'
    by_cases covered : spriteCovers s x y n.val px py
    · rw [inverted' covered, inverted covered, Bool.not_not]
    · rw [kept' covered, kept covered]
  · have unlit : ∀ fb : FrameBuffer, pixelGet fb px py = false := fun fb => pixelGet_outside fb px py (by omega)
    exact (unlit _).trans (unlit _).symm

end

/-- Settles O56: both draws cover the same pixels, so the second inverts the first one's back, and from a blank frame
it finds lit exactly what the first one covered. -/
theorem drawTwice : Obligations.DrawTwice := by
  intro s t u x y n first second sameX sameY
  obtain rfl := eq_of_exec_drw s x y n first
  obtain rfl := eq_of_exec_drw _ x y n second
  have same := spriteCovers_afterDraw sameX sameY
  refine ⟨State.pixel_afterDraw_afterDraw same, fun blank => ?_⟩
  rw [State.getV_flag_afterDraw_eq_one_iff]
  refine exists₂_congr fun px py => and_congr_right fun hx => and_congr_right fun hy => ?_
  rw [same, State.pixel_afterDraw_of_blank blank hx hy, and_self_iff]

end Sys2Proof.Machine

/-! # Timers and keys (45_timers_keys.md): the timer copies, the key skips and the key wait -/

namespace Sys2Proof.Machine

/-- Settles O57: one register write, of DT; one write of DT and one of ST, of the register. -/
theorem timerCopies : Obligations.TimerCopies :=
  ⟨fun x => ⟨decodeOfEncode (.ldVxDT x), decodeOfEncode (.ldDTVx x), decodeOfEncode (.ldSTVx x)⟩,
    fun s x => ⟨⟨_, rfl, setsReg_setV s x s.dt⟩, rfl, rfl⟩⟩

/-! ## The key skips (R193, R194, R197) -/

/-- The key index is the low nibble as a number (R197). -/
theorem val_keyIndex (b : Byte) : (keyIndex b).val = b.toNat % 16 := by
  simp [keyIndex]

section
variable (s : State) (k : RegIdx)

theorem State.skipIf_keyDown :
    s.skipIf (s.keyDown k) = { s with pc := if s.key.getLsbD k.val = true then s.pc + 2 else s.pc } := by
  simp only [State.skipIf_eq, State.keyDown]

theorem State.skipIf_keyUp :
    s.skipIf (!s.keyDown k) = { s with pc := if s.key.getLsbD k.val = false then s.pc + 2 else s.pc } := by
  simp only [State.skipIf_eq, State.keyDown, Bool.not_eq_true']

end

/-- Settles O58: the key named is that of `keyIndex`, and each skip is `skipIf` of its level. -/
theorem keySkips : Obligations.KeySkips := by
  refine ⟨fun x => ⟨decodeOfEncode (.skp x), decodeOfEncode (.sknp x)⟩, fun s x k lowNibble => ?_⟩
  obtain rfl : keyIndex (s.getV x) = k := Fin.ext ((val_keyIndex _).trans lowNibble.symm)
  exact ⟨congrArg Host.Outcome.next (s.skipIf_keyDown _), congrArg Host.Outcome.next (s.skipIf_keyUp _)⟩

/-! ## The entry of the key wait (R195) -/

/-- LD Vx,K undoes the advance, takes the key levels as the baseline and waits (R195). -/
theorem exec_ldVxK {s : State} (x : RegIdx) {pc0 : Addr} (advanced : s.pc = pc0 + 2) :
    exec (.ldVxK x) s = .next { s with pc := pc0, keyPrev := s.key, status := .awaitingKey x } := by
  have back : s.pc - 2 = pc0 := by rw [advanced, BitVec.add_sub_cancel]
  rw [← back]
  rfl

/-- Settles O59: a STEP executes LD Vx,K on the advanced state, so pc0 is the PC it began with. -/
theorem waitEntry : Obligations.WaitEntry := by
  refine ⟨fun x => decodeOfEncode (.ldVxK x), fun _ x _ advanced => exec_ldVxK x advanced,
    fun s x running decoded => ?_⟩
  rw [step_running s running, runInstruction_of_ok decoded]
  exact ⟨_, exec_ldVxK x s.advance_pc, rfl, stepReply_of_ends_waiting (by simp [running]) rfl⟩

/-! ## The polls of the key wait (R196) -/

section
variable {s : State}

theorem leastKey_edges_eq_none_iff : leastKey s.edges = none ↔ ∀ k, ¬s.keyEdge k := by
  simp only [leastKey_none, ← getLsbD_edges, Bool.not_eq_true]

theorem leastKey_edges_eq_some_iff {k : RegIdx} :
    leastKey s.edges = some k ↔ s.keyEdge k ∧ ∀ j, j < k → ¬s.keyEdge j := by
  simp only [leastKey_some, ← getLsbD_edges, Bool.not_eq_true]

/-- A poll that sees no edge refreshes KEY_PREV alone. -/
theorem step_waitsOn {x : RegIdx} (waiting : s.status = .awaitingKey x) (noEdge : ∀ k, ¬s.keyEdge k) :
    step s = .next s.sampleKeys := by
  rw [step_waiting s x waiting, pollKeys_of_none x (leastKey_edges_eq_none_iff.mpr noEdge)]

/-- A poll that sees an edge puts the least such key in V[x], passes the LD Vx,K and runs on. -/
theorem step_takesKey {x k : RegIdx} (waiting : s.status = .awaitingKey x) (edge : s.keyEdge k)
    (least : ∀ j, j < k → ¬s.keyEdge j) :
    step s = .next ((((s.sampleKeys).setV x (BitVec.ofNat 8 k.val)).advance).setStatus .running) := by
  rw [step_waiting s x waiting, pollKeys_of_some x (leastKey_edges_eq_some_iff.mpr ⟨edge, least⟩)]

end

/-- Settles O13: the two polls (`step_waitsOn`, `step_takesKey`), with their events. -/
theorem pollKeys_spec : Obligations.PollKeys := by
  intro s x waiting
  have alive : s.status ≠ .halted := by simp [waiting]
  constructor
  · exact fun noEdge => ⟨step_waitsOn waiting noEdge, stepReply_of_ends_waiting alive waiting⟩
  · exact fun k edge least => ⟨_, step_takesKey waiting edge least, stepReply_of_ends_running alive rfl,
      fun r => s.sampleKeys.getV_setV x r _, rfl⟩

/-- Settles O27: a STEP without an edge refreshes KEY_PREV alone; the host's other operations write neither STATUS, nor
PC, nor a register. -/
theorem waitPersists : Obligations.WaitPersists := by
  intro s op x waiting notReset notLoad noEdge
  cases op with
  | reset c => exact absurd rfl (notReset c)
  | load bytes => exact absurd rfl (notLoad bytes)
  | step =>
    rw [HostOp.apply, State.hostStep, step_waitsOn waiting (noEdge rfl)]
    exact ⟨waiting, rfl, fun _ => rfl⟩
  | tick | setKey | takeDirty | frameBuffer | snapshot | soundActive => exact ⟨waiting, rfl, fun _ => rfl⟩

end Sys2Proof.Machine

/-! # Exceptions (60_exceptions.md): fault entry, what stays in Halted, and TICK -/

namespace Sys2Proof.Machine

/-! ## The faults of a STEP (R221, R226) -/

section
variable {s t : State} {reply : StepReply} (report : StepReport s t reply)
include report

theorem StepReport.unknownOpcode_iff (began : s.status = .running) {w : Word} {pc : Addr} :
    reply = .fault (.unknownOpcode w pc) ↔ (∀ i, decode s.fetchWord ≠ .ok i) ∧ w = s.fetchWord ∧ pc = s.pc := by
  cases report with
  | completes _ decoded | beginsWait _ decoded | overflows _ decoded | underflows _ decoded => simp [decoded]
  | unknown _ undecoded => simp [undecoded, eq_comm]
  | waitsOn waiting | endsWait waiting | stays waiting => simp [began] at waiting

/-- A STEP that returns a fault leaves the advanced state with that fault entered (R226). -/
theorem StepReport.eq_faulted {f : FaultRecord} (returned : reply = .fault f) : t = s.advance.faulted f := by
  cases report with
  | overflows | underflows | unknown =>
    obtain rfl := StepReply.fault.inj returned
    rfl
  | completes | beginsWait | waitsOn | endsWait | stays => simp at returned

end

/-- Settles O7: of the reasons of the reply (`StepReport`) only the unknown word's returns this fault. -/
theorem unknownOpcodeRaised : Obligations.UnknownOpcodeRaised :=
  fun _ _ began next _ _ => (StepOutcome.of_next next).report.unknownOpcode_iff began

/-- Settles O8: fault entry on the advanced state makes exactly the three changes. -/
theorem faultEntry : Obligations.FaultEntry :=
  fun _ _ _ next returned => (StepOutcome.of_next next).report.eq_faulted returned

/-! ## Halted (R230, R231) -/

/-- Settles O26: a STEP of a Halted core changes nothing (`step_halted`); the host's other operations write neither
STATUS nor FAULT. -/
theorem haltedStays : Obligations.HaltedStays := by
  intro s op halted notReset notLoad
  cases op with
  | reset c => exact absurd rfl (notReset c)
  | load bytes => exact absurd rfl (notLoad bytes)
  | step =>
    rw [HostOp.apply, State.hostStep, step_halted halted]
    exact ⟨halted, rfl⟩
  | tick | setKey | takeDirty | frameBuffer | snapshot | soundActive => exact ⟨halted, rfl⟩

/-! ## TICK (R233, R234) -/

theorem State.toNat_tick_dt (s : State) : s.tick.dt.toNat = s.dt.toNat - 1 := toNat_tickByte s.dt

theorem State.toNat_tick_st (s : State) : s.tick.st.toNat = s.st.toNat - 1 := toNat_tickByte s.st

/-- Settles O22: TICK writes the two timers alone, each by `tickByte`. -/
theorem tick : Obligations.Tick :=
  fun s => ⟨s.tick, rfl, s.toNat_tick_dt, s.toNat_tick_st, rfl⟩

theorem runOps_replicate_tick_succ (s : State) (n : Nat) :
    runOps s (List.replicate (n + 1) .tick) = runOps s.tick (List.replicate n .tick) := rfl

/-- Settles O23, by induction on the number of TICKs: the first takes one off each timer, the rest take n more. -/
theorem ticksToZero : Obligations.TicksToZero := by
  intro s n
  induction n generalizing s with
  | zero => exact ⟨rfl, rfl⟩
  | succ n ih =>
    obtain ⟨delay, sound⟩ := ih s.tick
    rw [runOps_replicate_tick_succ, delay, sound, s.toNat_tick_dt, s.toNat_tick_st]
    omega

end Sys2Proof.Machine

/-! # Reset and hazards (70_reset_and_hazards.md): what RESET and LOAD leave, the first STEP, and the jump to itself -/

namespace Sys2Proof.Machine

/-! ## The state under RESET and LOAD (R250, R251) -/

section
variable (c : Config)

theorem State.getV_resetWith (r : RegIdx) : (State.resetWith c).getV r = 0 :=
  Vector.getElem_replicate r.isLt

theorem State.getElem_resetWith_stk (j : Fin 16) : (State.resetWith c).stk[j] = 0 :=
  Vector.getElem_replicate j.isLt

theorem State.pixel_resetWith (x y : Nat) : (State.resetWith c).pixel x y = false :=
  pixelGet_blankFrame x y

theorem State.keyDown_resetWith (k : RegIdx) : (State.resetWith c).keyDown k = false :=
  BitVec.getLsbD_zero

end

/-- Settles O15: RESET is `State.resetWith` with the draw count kept, and `State.reset` its default case. -/
theorem resetState : Obligations.ResetState :=
  fun _ => ⟨rfl, rfl⟩

/-! ## Memory after RESET (R67) -/

section
variable (c : Config)

/-- The font table is row-major in its glyphs (R68). -/
theorem fontByte_glyph {k d row : Nat} (hd : d < 16) (hrow : row < 5) (offset : k = 5 * d + row) :
    fontByte c k = c.fontData[d][row] := by
  obtain rfl : d = k / 5 := by omega
  obtain rfl : row = k % 5 := by omega
  exact dif_pos hd

theorem fontByte_past {k : Nat} (past : 80 ≤ k) : fontByte c k = 0 :=
  dif_neg (by omega)

theorem resetByte_glyph (d : Fin 16) (row : Fin 5) :
    resetByte c (c.fontBase.val + 5 * d.val + row.val) = c.fontData[d][row] := by
  rw [resetByte, if_pos (by omega)]
  exact fontByte_glyph c d.isLt row.isLt (by omega)

theorem resetByte_outside {a : Nat} (outside : a < c.fontBase.val ∨ c.fontBase.val + 80 ≤ a) :
    resetByte c a = 0 := by
  rcases outside with below | above
  · exact if_neg (by omega)
  · rw [resetByte, if_pos (by omega), fontByte_past c (by omega)]

/-- After RESET no address is listed, so each reads as its reset content (log entry 8). -/
theorem State.memRead_hostReset (s : State) {a : Nat} (inside : a < 4096) :
    (s.hostReset c).memRead a = resetByte c a :=
  congrArg (resetByte c) (Nat.mod_eq_of_lt inside)

/-- The font table ends below PROGRAM_BASE (R6). -/
theorem State.memRead_hostReset_program (s : State) {a : Nat} (program : 0x200 ≤ a) (inside : a < 4096) :
    (s.hostReset c).memRead a = 0 := by
  have base := c.fontBase.isLt
  rw [s.memRead_hostReset c inside, resetByte_outside c (by omega)]

/-- With no program loaded the word where PC starts is zero (R67). -/
theorem State.fetchWord_hostReset (s : State) : (s.hostReset c).fetchWord = 0x0000 :=
  congrArg₂ joinBytes (s.memRead_hostReset_program c (a := 0x200) (by decide) (by decide))
    (s.memRead_hostReset_program c (a := 0x201) (by decide) (by decide))

end

/-- Settles O14: memory by its reset content, within the font table and outside it; all else by `State.resetWith`. -/
theorem resetValues : Obligations.ResetValues := by
  intro s c
  have base := c.fontBase.isLt
  refine ⟨fun d row => ?_, fun a inside outside => ?_, State.getV_resetWith c, State.getElem_resetWith_stk c,
    State.pixel_resetWith c, State.keyDown_resetWith c, _, rfl, rfl, rfl, rfl, rfl, rfl, rfl, rfl, rfl, rfl⟩
  · exact (s.memRead_hostReset c (by omega)).trans (resetByte_glyph c d row)
  · exact (s.memRead_hostReset c inside).trans (resetByte_outside c outside)

/-! ## LOAD (R251, R252) -/

/-- What a LOAD that fits leaves (`load_eq_of_fits`). -/
def State.loaded (s : State) (bytes : List Byte) : State :=
  (s.memWriteList programBase bytes).clearForLoad

section
variable (s : State) (bytes : List Byte)

theorem load_eq_of_fits (fits : bytes.length ≤ romCapacity) : s.load bytes = (s.loaded bytes, none) :=
  if_neg fits.not_gt

theorem load_eq_of_large (large : romCapacity < bytes.length) :
    s.load bytes = (s, some (.romTooLarge bytes.length romCapacity)) :=
  if_pos large

theorem apply_load_of_fits (fits : bytes.length ≤ romCapacity) :
    (HostOp.load bytes).apply s = (s.loaded bytes, .loaded none) := by
  rw [HostOp.apply, load_eq_of_fits s bytes fits]

theorem State.memWriteList_key (a : Nat) : (s.memWriteList a bytes).key = s.key := by
  rw [State.memWriteList_eq]

theorem State.memWriteList_cfg (a : Nat) : (s.memWriteList a bytes).cfg = s.cfg := by
  rw [State.memWriteList_eq]

/-- A LOAD clears the key history, not the keys (R251). -/
theorem State.loaded_key : (s.loaded bytes).key = s.key :=
  s.memWriteList_key bytes programBase

theorem State.loaded_cfg : (s.loaded bytes).cfg = s.cfg :=
  s.memWriteList_cfg bytes programBase

/-- The clearing of a LOAD leaves memory to the bytes written (R251). -/
theorem State.memRead_loaded (a : Nat) :
    (s.loaded bytes).memRead a = (s.memWriteList programBase bytes).memRead a := rfl

theorem State.memRead_loaded_at (fits : bytes.length ≤ romCapacity) (j : Nat) (hj : j < bytes.length) :
    (s.loaded bytes).memRead (programBase + j) = bytes[j] := by
  rw [s.memRead_loaded, s.memRead_memWriteList_at _ _ _ hj (fits.trans (by decide))]

theorem State.memRead_loaded_outside (fits : bytes.length ≤ romCapacity) {a : Nat} (inside : a < memSize)
    (outside : a < programBase ∨ programBase + bytes.length ≤ a) : (s.loaded bytes).memRead a = s.memRead a := by
  rw [s.memRead_loaded, s.memRead_memWriteList_other]
  intro j hj
  simp only [memSize, programBase, romCapacity] at *
  omega

end

/-- Settles O20: a program that fits goes to memory byte by byte over a cleared state, a larger one is refused. -/
theorem loadProgram : Obligations.LoadProgram := by
  refine ⟨fun s bytes fits => ?_, fun s bytes large => ?_⟩
  · exact ⟨_, apply_load_of_fits s bytes fits, s.memRead_loaded_at bytes fits,
      fun _ inside => s.memRead_loaded_outside bytes fits inside, rfl, State.getV_resetWith s.cfg, rfl,
      State.getElem_resetWith_stk s.cfg, rfl, rfl, rfl, State.pixel_resetWith s.cfg, rfl, rfl, rfl, rfl,
      s.loaded_key bytes, s.loaded_cfg bytes⟩
  · rw [HostOp.apply, load_eq_of_large s bytes large]

/-! ## The first STEP (R253) -/

theorem runOps_reset_load (s : State) (c : Config) {bytes : List Byte} (fits : bytes.length ≤ romCapacity) :
    runOps s [.reset c, .load bytes] = (s.hostReset c).loaded bytes :=
  congrArg Prod.fst (apply_load_of_fits (s.hostReset c) bytes fits)

/-- A loaded program's first word is the next to be fetched (R64, R253). -/
theorem State.fetchWord_loaded (s : State) (hi lo : Byte) {rest : List Byte} (fits : rest.length + 2 ≤ romCapacity) :
    (s.loaded (hi :: lo :: rest)).fetchWord = joinBytes hi lo :=
  congrArg₂ joinBytes (s.memRead_loaded_at (hi :: lo :: rest) fits 0 (by simp))
    (s.memRead_loaded_at (hi :: lo :: rest) fits 1 (by simp))

/-- Settles O21: the word fetched is the program's first, or zero, which is no instruction (R87). -/
theorem bootSequence : Obligations.BootSequence := by
  refine ⟨fun s c hi lo rest i fits decoded => ?_, fun s c => ?_⟩
  · refine ⟨_, runOps_reset_load s c fits, ?_, State.getV_resetWith c, rfl⟩
    rw [← (s.hostReset c).fetchWord_loaded hi lo fits] at decoded
    rw [step_running _ rfl, runInstruction_of_ok decoded]
    rfl
  · have undecoded : decode (s.hostReset c).fetchWord = .error (.unknownOpcode 0x0000) := by
      rw [s.fetchWord_hostReset c]
      rfl
    exact ⟨_, (step_running _ rfl).trans (runInstruction_of_error undecoded), rfl, rfl⟩

/-! ## The jump to itself (R266) -/

theorem encode_jp (a : Addr) : encode (.jp a) = 0x1000 + a.setWidth 16 := by
  have word : (encode (.jp a)).toNat = 1 * 4096 + a.toNat := toNat_formatA 0x1 a
  bv_omega

/-- Settles O60: the word at PC is that of JP to PC, which a STEP leaves where it is (`jpJumps`). -/
theorem selfJump : Obligations.SelfJump := by
  rintro s ⟨running, word⟩
  obtain ⟨-, -, jumpToSelf⟩ := jpJumps
  have decoded : decode s.fetchWord = .ok (.jp s.pc) := by
    rw [word, ← encode_jp, decodeOfEncode]
  exact jumpToSelf s running decoded

end Sys2Proof.Machine
